-- ==== Sys2Proof/Word.lean ====
section
/-! DEFINITION. The plain word types of IRDEC: the 128-bit transaction word (30_encoding.md R72) and the widths of the values
that cross IRDEC's channels (R71). No value of IRDEC is signed (00_scope.md R10), and no value is stored in more than one
addressed unit, so no byte order arises (20_memory.md R53). -/

namespace Sys2Proof

/-- A transaction word, bit 127 the most significant (R72). -/
abbrev TxWord := BitVec 128

/-- An edge timestamp, and a wrapping interval between two of them, in ticks (`TS_W` of 00_scope.md R8). -/
abbrev Timestamp := BitVec 32

/-- A value of the monotonic time `now`, in microseconds (`NOW_W` of 00_scope.md R8; 42_debounce_gate.md R160). -/
abbrev Instant := BitVec 64

/-- A command code or a check byte: one byte of a frame (30_encoding.md R78). -/
abbrev Code := BitVec 8

/-- The 4-bit code of an input symbol, as `OUT_SYM` and the command ROM hold it (30_encoding.md R74). -/
abbrev SymCode := BitVec 4

/-- One pair of `MAP_TABLE`: a command code and the symbol it stands for (41_command_mapper.md R141). -/
abbrev MapPair := Code × SymCode

end Sys2Proof
end

