-- ==== Sys2Proof/Syntax.lean ====
section
/-! DEFINITION. The syntax of IRDEC: its four transactions (30_encoding.md R70), one constructor for each row of the opcode
table (R81), and the closed set of twelve input symbols (R74). -/

namespace Sys2Proof

/-- The four transactions of 30_encoding.md R70. The operands of EDGE carry their widths in their types (R73); the other
three take none. -/
inductive Instr where
  /-- A step with no event (43_decoder_loop.md R189). -/
  | nop
  /-- EdgeSource delivers one edge with timestamp `ts`; the time source reads `now` (43_decoder_loop.md R180). -/
  | edge (ts : Timestamp) (now : Instant)
  /-- EventSink takes the pending symbol (43_decoder_loop.md R188). -/
  | deliver
  /-- Construction: every register takes its reset value (70_reset_and_hazards.md R260). -/
  | reset
deriving DecidableEq, Repr

/-- The twelve input symbols, "a tagged/discriminated variant type" (30_encoding.md R74). -/
inductive Symbol where
  | zero | one | two | three | four | five | six | seven | eight | nine | submit | backspace
deriving DecidableEq, Repr

end Sys2Proof
end

