-- ==== Sys2Proof/Machine/MapTable.lean ====
section
/-! DEFINITION. The symbol codes of 30_encoding.md R74 and the conditions 41_command_mapper.md R141 puts on a command table. -/

namespace Sys2Proof.Machine

/-- The 4-bit code of a symbol (30_encoding.md R74). -/
def symbolCode (sym : Symbol) : SymCode :=
  match sym with
  | .zero => 0 | .one => 1 | .two => 2 | .three => 3 | .four => 4 | .five => 5
  | .six => 6 | .seven => 7 | .eight => 8 | .nine => 9 | .submit => 10 | .backspace => 11

/-- The twelve symbols, in the order of their codes (30_encoding.md R74). -/
def allSymbols : List Symbol :=
  [.zero, .one, .two, .three, .four, .five, .six, .seven, .eight, .nine, .submit, .backspace]

/-- The symbol a 4-bit code stands for; codes 12 to 15 are reserved and stand for none (30_encoding.md R74). -/
def symbolOfCode (c : SymCode) : Option Symbol :=
  allSymbols.find? fun sym => symbolCode sym == c

/-- The one pair that every command table holds: `(0x0C, ONE)` (41_command_mapper.md R141(d)). -/
def fixedPair : MapPair := (0x0C#8, symbolCode .one)

/-- R141(a): exactly twelve pairs. -/
def hasTwelvePairs (pairs : List MapPair) : Bool := pairs.length == 12

/-- R141(b): the codes are pairwise distinct. -/
def codesDistinct (pairs : List MapPair) : Bool :=
  decide ((pairs.map Prod.fst).Pairwise fun a b => a ≠ b)

/-- R141(c): each of the twelve symbols appears in exactly one pair. -/
def symbolsOnceEach (pairs : List MapPair) : Bool :=
  allSymbols.all fun sym => pairs.countP (fun p => p.2 == symbolCode sym) == 1

/-- R141(d): the pair `(0x0C, ONE)` is present. -/
def hasFixedPair (pairs : List MapPair) : Bool := pairs.contains fixedPair

/-- A list of pairs is a well-formed `MAP_TABLE` (41_command_mapper.md R141). -/
def pairsWf (pairs : List MapPair) : Bool :=
  hasTwelvePairs pairs && codesDistinct pairs && symbolsOnceEach pairs && hasFixedPair pairs

end Sys2Proof.Machine
end

