-- ==== Sys2Proof/Config.lean ====
section
/-! DEFINITION. `CONFIG`, IRDEC's set of control registers (10_state.md R31), "fixed at construction and read-only
afterwards", and the one part of it the spec leaves OPEN: eleven of the twelve pairs of `MAP_TABLE`.

`CONFIG` is an argument of the model (00_scope.md R7): State carries it in a field that no transaction writes, so a statement
about every state is a statement about every configuration. (DESIGN CHOICE, unsafe for
statements about the reference values: log entry 1.) -/

namespace Sys2Proof

/-- The six nominal durations (00_scope.md R9). -/
inductive Nominal where
  | hdrMark | hdrSpace | rptSpace | bitMark | zeroSpace | oneSpace
deriving DecidableEq, Repr

/-- `MAP_TABLE` as a model is given it. -/
inductive MapTable where
  /-- No remote is named: the table is the OPEN one, of which only `(0x0C, ONE)` is known (41_command_mapper.md R141). -/
  | unnamed
  /-- The table of a named remote, as a list of pairs (41_command_mapper.md R141). -/
  | named (pairs : List MapPair)
deriving DecidableEq, Repr

/-- The configuration registers, with the widths of 10_state.md R31. -/
structure Config where
  hdrMark : BitVec 32
  hdrSpace : BitVec 32
  rptSpace : BitVec 32
  bitMark : BitVec 32
  zeroSpace : BitVec 32
  oneSpace : BitVec 32
  tolPct : BitVec 7
  qw : BitVec 64
  polInit : Bool
  polCheck : Bool
  mapTable : MapTable
deriving DecidableEq, Repr

/-- FREE VALUE: the eleven pairs that the spec leaves OPEN (41_command_mapper.md R141; 92_eei_decisions.md D20). It has no
body: nothing about it can be proved. (Safe: log entry 2.) -/
opaque Config.freeMapTail : List MapPair

/-- What stands in for the free pairs should they break R141. Whether they do is not provable, so no statement can come to
rest on these pairs. (DESIGN CHOICE, safe: log entry 2.) -/
def Config.fillerMapTail : List MapPair :=
  [(0, 0), (2, 2), (3, 3), (4, 4), (5, 5), (6, 6), (7, 7), (8, 8), (9, 9), (10, 10), (11, 11)]

/-- The OPEN command table: `(0x0C, ONE)` and eleven pairs that nothing determines but R141. -/
def Config.openMapTable : List MapPair :=
  Machine.fixedPair ::
    (if Machine.pairsWf (Machine.fixedPair :: Config.freeMapTail) then Config.freeMapTail else Config.fillerMapTail)

/-- The pairs of a command table. -/
def MapTable.pairs (t : MapTable) : List MapPair :=
  match t with
  | .unnamed => Config.openMapTable
  | .named pairs => pairs

/-- The configuration register that holds a nominal duration. -/
def Config.nominal (cfg : Config) (n : Nominal) : BitVec 32 :=
  match n with
  | .hdrMark => cfg.hdrMark
  | .hdrSpace => cfg.hdrSpace
  | .rptSpace => cfg.rptSpace
  | .bitMark => cfg.bitMark
  | .zeroSpace => cfg.zeroSpace
  | .oneSpace => cfg.oneSpace

/-- The values for this hardware (00_scope.md R8). `MAP_TABLE` is OPEN there. -/
def Config.reference : Config where
  hdrMark := 9000
  hdrSpace := 4500
  rptSpace := 2250
  bitMark := 562
  zeroSpace := 562
  oneSpace := 1687
  tolPct := 25
  qw := 300000
  polInit := false
  polCheck := true
  mapTable := .unnamed

/-- `TICK_HZ`: the rate of the edge timestamps. It describes EdgeSource; no rule of IRDEC reads it (10_state.md R31). -/
def Config.tickHz : Nat := 1000000

/-- `FRAME_BITS`: data bits in a frame, a constant and not tunable (00_scope.md R8). -/
def Config.frameBits : Nat := 16

end Sys2Proof
end

