-- ==== Sys2Proof/Machine/Operands.lean ====
section
/-! DEFINITION. The operands of one decode step: the wrapping interval between two edges (43_decoder_loop.md R182), the
tolerance bands (00_scope.md R9) and the two tests of 40_pulse_decoder.md R101. Band arithmetic is exact, on unbounded
naturals (00_scope.md R11). -/

namespace Sys2Proof.Machine

/-- The wrapping interval `ts -w PREV_TS` (43_decoder_loop.md R182): `(ts - PREV_TS) mod 2^32`. -/
def interval (ts prevTs : Timestamp) : Timestamp := ts - prevTs

/-- `LO(N) = ceil(N * (100 - TOL_PCT) / 100)` (00_scope.md R9). -/
def bandLo (nominal tolPct : Nat) : Nat := (nominal * (100 - tolPct) + 99) / 100

/-- `HI(N) = floor(N * (100 + TOL_PCT) / 100)` (00_scope.md R9). -/
def bandHi (nominal tolPct : Nat) : Nat := nominal * (100 + tolPct) / 100

/-- The band of a nominal duration under a configuration, as its two inclusive ends (00_scope.md R9). -/
def band (cfg : Config) (n : Nominal) : Nat × Nat :=
  (bandLo (cfg.nominal n).toNat cfg.tolPct.toNat, bandHi (cfg.nominal n).toNat cfg.tolPct.toNat)

/-- The tolerance test `in_band(iv, N)` (40_pulse_decoder.md R101). -/
def inBand (cfg : Config) (iv : Timestamp) (n : Nominal) : Bool :=
  decide ((cfg.nominal n).toNat * (100 - cfg.tolPct.toNat) ≤ 100 * iv.toNat) &&
    decide (100 * iv.toNat ≤ (cfg.nominal n).toNat * (100 + cfg.tolPct.toNat))

/-- The role test `role_ok(is_mark, want)` (40_pulse_decoder.md R101). -/
def roleOk (cfg : Config) (isMark want : Bool) : Bool := !cfg.polCheck || isMark == want

/-- An interval passes as a mark of nominal duration `n`: the role test, then the band test (60_exceptions.md R227(3)). -/
def isMarkOf (cfg : Config) (iv : Timestamp) (isMark : Bool) (n : Nominal) : Bool :=
  roleOk cfg isMark true && inBand cfg iv n

/-- An interval passes as a space of nominal duration `n`. -/
def isSpaceOf (cfg : Config) (iv : Timestamp) (isMark : Bool) (n : Nominal) : Bool :=
  roleOk cfg isMark false && inBand cfg iv n

end Sys2Proof.Machine
end

