-- ==== Sys2Proof/WellFormed.lean ====
section
/-! DEFINITION. The static checks. Every `Instr` is well formed as it stands, because R73's operand widths are carried by the
types; which WORDS are legal is the decoder's question (30_encoding.md R79(a), Decode.lean). What has to be checked is a
`CONFIG` (10_state.md R31): the model refuses an ill-formed one, which has no run. -/

namespace Sys2Proof

/-- 10_state.md R31: the six durations are 1 or more, and `TOL_PCT` is 99 or less (the widths bound the rest). -/
def Config.fieldsInRange (cfg : Config) : Bool :=
  cfg.hdrMark != 0 && cfg.hdrSpace != 0 && cfg.rptSpace != 0 && cfg.bitMark != 0 && cfg.zeroSpace != 0 &&
    cfg.oneSpace != 0 && decide (cfg.tolPct.toNat ≤ 99)

/-- Two bands have no tick in common (10_state.md R31). -/
def Config.bandsDisjoint (cfg : Config) (m n : Nominal) : Bool :=
  decide ((Machine.band cfg m).2 < (Machine.band cfg n).1) || decide ((Machine.band cfg n).2 < (Machine.band cfg m).1)

/-- R141 for a table as given. The OPEN table meets it by construction (Laws/Config.lean, `openMapTable_wf`). -/
def MapTable.wf (t : MapTable) : Bool :=
  match t with
  | .unnamed => true
  | .named pairs => Machine.pairsWf pairs

/-- A `CONFIG` is well-formed (10_state.md R31). -/
def Config.wf (cfg : Config) : Bool :=
  cfg.fieldsInRange && cfg.bandsDisjoint .hdrSpace .rptSpace && cfg.bandsDisjoint .zeroSpace .oneSpace &&
    cfg.mapTable.wf

end Sys2Proof
end

