-- ==== Sys2Proof/Decode.lean ====
section
/-! DEFINITION. The decoder of transaction words (30_encoding.md R72, R73, R79, R81), total on all 128-bit words and rejecting
by name, and after it the encoder, written from the same table. -/

namespace Sys2Proof

/-- Why a word is illegal (30_encoding.md R79(a)). -/
inductive IllegalWord where
  /-- `OP` is EDGE and a bit of `RSV[125:96]` is set. -/
  | edgeReserved
  /-- `OP` is NOP and a bit of 125:0 is set. -/
  | nopOperand
  /-- `OP` is DELIVER and a bit of 125:0 is set. -/
  | deliverOperand
  /-- `OP` is RESET and a bit of 125:0 is set. -/
  | resetOperand
deriving DecidableEq, Repr

/-- What the decoder answers. -/
inductive Decoded where
  | legal (i : Instr)
  | illegal (why : IllegalWord)
deriving DecidableEq, Repr

/-- `OP = word[127:126]` (30_encoding.md R72). -/
def opField (w : TxWord) : BitVec 2 := w.extractLsb' 126 2

/-- `RSV = word[125:96]` (30_encoding.md R72). -/
def rsvField (w : TxWord) : BitVec 30 := w.extractLsb' 96 30

/-- `TS = word[95:64]` (30_encoding.md R72, R73). -/
def tsField (w : TxWord) : Timestamp := w.extractLsb' 64 32

/-- `NOW = word[63:0]` (30_encoding.md R72, R73). -/
def nowField (w : TxWord) : Instant := w.extractLsb' 0 64

/-- Bits 125:0, all of which must be 0 in NOP, DELIVER and RESET (30_encoding.md R79(a)). -/
def belowOp (w : TxWord) : BitVec 126 := w.extractLsb' 0 126

/-- The transaction a word stands for, or why it stands for none (30_encoding.md R72, R79, R81). -/
def decode (w : TxWord) : Decoded :=
  if opField w = 0b00#2 then
    if belowOp w = 0 then .legal .nop else .illegal .nopOperand
  else if opField w = 0b01#2 then
    if rsvField w = 0 then .legal (.edge (tsField w) (nowField w)) else .illegal .edgeReserved
  else if opField w = 0b10#2 then
    if belowOp w = 0 then .legal .deliver else .illegal .deliverOperand
  else
    if belowOp w = 0 then .legal .reset else .illegal .resetOperand

/-- The word of a transaction, field by field: `OP`, `RSV`, `TS`, `NOW` (30_encoding.md R72, R81). -/
def encode (i : Instr) : TxWord :=
  match i with
  | .nop => 0b00#2 ++ 0#30 ++ 0#32 ++ 0#64
  | .edge ts now => 0b01#2 ++ 0#30 ++ ts ++ now
  | .deliver => 0b10#2 ++ 0#30 ++ 0#32 ++ 0#64
  | .reset => 0b11#2 ++ 0#30 ++ 0#32 ++ 0#64

/-- One row of the opcode map (30_encoding.md R81). -/
structure OpcodeRow where
  mnemonic : String
  matchBits : TxWord
  maskBits : TxWord
deriving DecidableEq, Repr

/-- The opcode map of 30_encoding.md R81, `MATCH` and `MASK` as its hex digits stand there. -/
def opcodeTable : List OpcodeRow :=
  [⟨"NOP", 0x00000000000000000000000000000000#128, 0xFFFFFFFFFFFFFFFFFFFFFFFFFFFFFFFF#128⟩,
   ⟨"EDGE", 0x40000000000000000000000000000000#128, 0xFFFFFFFF000000000000000000000000#128⟩,
   ⟨"DELIVER", 0x80000000000000000000000000000000#128, 0xFFFFFFFFFFFFFFFFFFFFFFFFFFFFFFFF#128⟩,
   ⟨"RESET", 0xC0000000000000000000000000000000#128, 0xFFFFFFFFFFFFFFFFFFFFFFFFFFFFFFFF#128⟩]

/-- A word matches a row: under the row's mask it equals the row's match value. -/
def OpcodeRow.matchesWord (r : OpcodeRow) (w : TxWord) : Bool := w &&& r.maskBits == r.matchBits

/-- A word is legal if it matches exactly one row (30_encoding.md R79(a)). -/
def wordLegal (w : TxWord) : Bool := (opcodeTable.filter fun r => r.matchesWord w).length == 1

/-- The mnemonic of a transaction, as the opcode map spells it. -/
def mnemonicOf (i : Instr) : String :=
  match i with
  | .nop => "NOP"
  | .edge _ _ => "EDGE"
  | .deliver => "DELIVER"
  | .reset => "RESET"

/-- A word given as a number, bit 127 the most significant; of `w`, only the low `nbits` bits count (log entry 9). -/
def wordOfBits (nbits w : Nat) : TxWord := BitVec.ofNat 128 (w % 2 ^ nbits)

/-- The transaction the decoder reads from a word whose bits, numbered as spec/opcode_table.json numbers them, are `w`. A
number that does not fit the 128 bits of a word stands for no word (30_encoding.md R72). -/
def decodeTableWord (nbits w : Nat) : Option Instr :=
  if w % 2 ^ nbits < 2 ^ 128 then
    match decode (wordOfBits nbits w) with
    | .legal i => some i
    | .illegal _ => none
  else none

end Sys2Proof
end

