-- ==== Sys2Proof/Machine/CommandMapper.lean ====
section
/-! DEFINITION. CommandMapper: the command ROM (20_memory.md R50, R51) and MAP (41_command_mapper.md R140). The ROM's contents
are fixed by `CONFIG.MAP_TABLE`, so they are computed from it and stored nowhere else. -/

namespace Sys2Proof.Machine

/-- `ROMRead(code)`: the 5-bit entry `{valid[4], sym[3:0]}` (20_memory.md R50, R51). In a well-formed table the codes are
distinct; in an ill-formed one, which has no run, the first pair counts. (DESIGN CHOICE, safe: log entry 7.) -/
def romRead (cfg : Config) (code : Code) : BitVec 5 :=
  match cfg.mapTable.pairs.find? fun p => p.1 == code with
  | some p => 1#1 ++ p.2
  | none => 0

/-- `MAP(code)` (41_command_mapper.md R140). -/
def mapCode (cfg : Config) (code : Code) : Option SymCode :=
  if (romRead cfg code).getLsbD 4 then some ((romRead cfg code).extractLsb' 0 4) else none

end Sys2Proof.Machine
end

