-- ==== Sys2Proof/Machine/State.lean ====
section
/-! DEFINITION. The state of IRDEC: the ten registers of 10_state.md R20, the configuration registers of R31, the model-only
words of R37, and the stream of transaction words still to come (30_encoding.md R70, R72). Plain data throughout. -/

namespace Sys2Proof.Machine

/-- `DSTATE[1:0]`, the decoder's position (10_state.md R21). Its four names are its four values; `dstateCode` gives the
numbers. -/
inductive DState where
  | shIdle | shMark | rbMark | rbSpace
deriving DecidableEq, Repr

/-- PulseDecoder's outcome for one interval (30_encoding.md R75). The code that Symbol carries stands beside it, as in
40_pulse_decoder.md R100. -/
inductive PdOut where
  | noSymbol | symbol | repeatCode | errTiming | errChecksum
deriving DecidableEq, Repr

/-- What one transaction did (30_encoding.md R76). -/
inductive Disposition where
  | idle | primed | noSym | repeatCode | errTiming | errChecksum | unmapped | debounced | accepted | lost | delivered
  | reset | refused | fault
deriving DecidableEq, Repr

/-- One entry of `TRACE` (30_encoding.md R76). -/
structure TraceEntry where
  disp : Disposition
  val : BitVec 8
deriving DecidableEq, Repr

/-- The model faults of 60_exceptions.md R230. A transaction that raises one is itself a completed step, which records the
fault in `FAULT`; from then on the machine is stuck, and `step` answers the fault. -/
inductive Fault where
  /-- Answered by `step` when bit 0 of `FAULT` is set: an EDGE found `now < LAST_ACC` (42_debounce_gate.md R164). Safe: the
  machine stops where the spec gives the hardware no behaviour. -/
  | timeRegression
  /-- Answered by `step` when bit 1 of `FAULT` is set: an illegal word was presented (30_encoding.md R79). Safe, for the same
  reason. -/
  | refusedWord
deriving DecidableEq, Repr

/-- Why the model has no run. -/
inductive Refusal where
  /-- An instruction with no meaning yet. No arm of `exec` answers it. Safe. -/
  | notModelled (mnemonic : String)
  /-- Answered by `step` in a state whose `CONFIG` is ill-formed: "it has no run" (10_state.md R31). Safe. -/
  | illFormedConfig
deriving DecidableEq, Repr

/-- The ten registers of 10_state.md R20, read together. -/
structure Registers where
  dstate : DState
  bitcnt : BitVec 4
  acc : BitVec 16
  prevTs : Timestamp
  prevValid : Bool
  pol : Bool
  lastAcc : Instant
  lastValid : Bool
  outValid : Bool
  outSym : SymCode
deriving DecidableEq, Repr

/-- The state of the machine. -/
structure State where
  /-- `DSTATE` (10_state.md R21). -/
  dstate : DState
  /-- `BITCNT` (10_state.md R22). -/
  bitcnt : BitVec 4
  /-- `ACC` (10_state.md R23). -/
  acc : BitVec 16
  /-- `PREV_TS` (10_state.md R24). -/
  prevTs : Timestamp
  /-- `PREV_VALID` (10_state.md R25). -/
  prevValid : Bool
  /-- `POL` (10_state.md R26). -/
  pol : Bool
  /-- `LAST_ACC` (10_state.md R27). -/
  lastAcc : Instant
  /-- `LAST_VALID` (10_state.md R28). -/
  lastValid : Bool
  /-- `OUT_VALID` (10_state.md R29). -/
  outValid : Bool
  /-- `OUT_SYM` (10_state.md R30). -/
  outSym : SymCode
  /-- `CONFIG` (10_state.md R31): read only. -/
  cfg : Config
  /-- `FAULT` (60_exceptions.md R230): bit 0 TIME_REGRESSION, bit 1 REFUSED. -/
  fault : BitVec 2
  /-- `TRACE`, oldest entry first (30_encoding.md R76). -/
  trace : List TraceEntry
  /-- `DELIVERED`, oldest symbol first (43_decoder_loop.md R188). -/
  delivered : List SymCode
  /-- The transaction words still to come, the next one first (30_encoding.md R70, R72). The model's own field: log entry 4. -/
  input : List TxWord
deriving DecidableEq, Repr

/-- The ten registers of a state. -/
def State.regs (s : State) : Registers where
  dstate := s.dstate
  bitcnt := s.bitcnt
  acc := s.acc
  prevTs := s.prevTs
  prevValid := s.prevValid
  pol := s.pol
  lastAcc := s.lastAcc
  lastValid := s.lastValid
  outValid := s.outValid
  outSym := s.outSym

/-- Construction under a given `CONFIG`: the state in which a model starts (70_reset_and_hazards.md R261, R263). -/
def State.construct (cfg : Config) : State where
  dstate := .shIdle
  bitcnt := 0
  acc := 0
  prevTs := 0
  prevValid := false
  pol := cfg.polInit
  lastAcc := 0
  lastValid := false
  outValid := false
  outSym := 0
  cfg := cfg
  fault := 0
  trace := []
  delivered := []
  input := []

/-- The machine right after reset, under this hardware's `CONFIG` (00_scope.md R8). -/
def State.reset : State := State.construct Config.reference

end Sys2Proof.Machine
end

