-- ==== Sys2Proof/Machine/Flags.lean ====
section
/-! DEFINITION. The four 1-bit flags (10_state.md R33) and the operations that write them, and the two ports that only read
them (30_encoding.md R71). RESET writes all four (Reset.lean). -/

namespace Sys2Proof.Machine

/-- `POL <- ~POL`, on every consumed edge (43_decoder_loop.md R184). -/
def State.togglePol (s : State) : State := { s with pol := !s.pol }

/-- `PREV_VALID <- 1`, on the first edge after reset (43_decoder_loop.md R183). -/
def State.setPrevValid (s : State) : State := { s with prevValid := true }

/-- `LAST_VALID <- 1`, on an acceptance (42_debounce_gate.md R161). -/
def State.setLastValid (s : State) : State := { s with lastValid := true }

/-- `OUT_VALID <- 1`, on an acceptance (43_decoder_loop.md R187). -/
def State.setOutValid (s : State) : State := { s with outValid := true }

/-- `OUT_VALID <- 0`, when EventSink takes the symbol (43_decoder_loop.md R188). -/
def State.clearOutValid (s : State) : State := { s with outValid := false }

/-- The port `edge_ready` is `~OUT_VALID` (30_encoding.md R71). -/
def edgeReady (s : State) : Bool := !s.outValid

/-- The port `sym_valid` is `OUT_VALID` (30_encoding.md R71). -/
def symValid (s : State) : Bool := s.outValid

end Sys2Proof.Machine
end

