-- ==== Sys2Proof/Machine/Ops.lean ====
section
/-! DEFINITION. The named operations over the registers and the model-only words that the transactions share, and the one
operation that takes a model fault (60_exceptions.md R230). IRDEC has no trap, saves no state on any outcome and has no return
operation (R225, R226), so recording the sticky fault is all there is to take, and nothing stands beside it to return. -/

namespace Sys2Proof.Machine

/-- `trace(d)`: append one entry to `TRACE` (30_encoding.md R76). -/
def State.record (d : Disposition) (val : BitVec 8) (s : State) : State := { s with trace := s.trace ++ [⟨d, val⟩] }

/-- `PREV_TS <- ts` (43_decoder_loop.md R182). -/
def State.setPrevTs (ts : Timestamp) (s : State) : State := { s with prevTs := ts }

/-- What every consumed edge writes, whatever its outcome: `POL` and `PREV_TS` (43_decoder_loop.md R182, R184). -/
def State.consumeEdge (ts : Timestamp) (s : State) : State := s.togglePol.setPrevTs ts

/-- `DSTATE <- d; BITCNT <- n; ACC <- a` (43_decoder_loop.md R185). -/
def State.writeDecoder (d : DState) (n : BitVec 4) (a : BitVec 16) (s : State) : State :=
  { s with dstate := d, bitcnt := n, acc := a }

/-- `LAST_ACC <- now` (42_debounce_gate.md R161). -/
def State.setLastAcc (now : Instant) (s : State) : State := { s with lastAcc := now }

/-- `OUT_SYM <- sym` (43_decoder_loop.md R187). -/
def State.setOutSym (sym : SymCode) (s : State) : State := { s with outSym := sym }

/-- `emit(sym)`: EventSink receives a symbol (43_decoder_loop.md R188). -/
def State.emit (sym : SymCode) (s : State) : State := { s with delivered := s.delivered ++ [sym] }

/-- The bit of `FAULT` that records a model fault (60_exceptions.md R230). -/
def faultBit (f : Fault) : BitVec 2 :=
  match f with
  | .timeRegression => 0b01
  | .refusedWord => 0b10

/-- The trace entry of a model fault: `FAULT` with `val = 1`, or `REFUSED` with `val = 0` (60_exceptions.md R230,
30_encoding.md R76). -/
def faultEntry (f : Fault) : TraceEntry :=
  match f with
  | .timeRegression => ⟨.fault, 1⟩
  | .refusedWord => ⟨.refused, 0⟩

/-- `raise Fault(reason)`: set the sticky bit and trace it; no register is written (60_exceptions.md R230). -/
def State.takeFault (f : Fault) (s : State) : State :=
  { s with fault := s.fault ||| faultBit f }.record (faultEntry f).disp (faultEntry f).val

/-- The fault that keeps the machine stuck, if `FAULT != 0` (60_exceptions.md R230). No run sets both bits; should both be
set, bit 0 is named. (DESIGN CHOICE, safe: log entry 6.) -/
def State.stuckFault (s : State) : Option Fault :=
  if s.fault.getLsbD 0 then some .timeRegression
  else if s.fault.getLsbD 1 then some .refusedWord
  else none

end Sys2Proof.Machine
end

