-- ==== Sys2Proof/Machine/DebounceGate.lean ====
section
/-! DEFINITION. DebounceGate: ACCEPT (42_debounce_gate.md R161), a comparison of `now` with `LAST_ACC` and `QW`. -/

namespace Sys2Proof.Machine

/-- The three results of ACCEPT (42_debounce_gate.md R161): true, false, and the model fault TIME_REGRESSION (R164). -/
inductive GateResult where
  | accepted | debounced | timeRegression
deriving DecidableEq, Repr

/-- What ACCEPT answers, from `now`, `LAST_ACC`, `LAST_VALID` and `QW` alone (42_debounce_gate.md R161, R163). The
subtraction is exact: it is reached only where `now >= LAST_ACC`. -/
def gateResult (qw : BitVec 64) (lastValid : Bool) (lastAcc now : Instant) : GateResult :=
  if lastValid = false then .accepted
  else if now.toNat < lastAcc.toNat then .timeRegression
  else if qw.toNat ≤ now.toNat - lastAcc.toNat then .accepted
  else .debounced

/-- `ACCEPT(now, sym)` (42_debounce_gate.md R161): the result, and the state with what ACCEPT writes. `sym` is not read
(R163). -/
def accept (now : Instant) (_sym : SymCode) (s : State) : GateResult × State :=
  match gateResult s.cfg.qw s.lastValid s.lastAcc now with
  | .accepted => (.accepted, (s.setLastAcc now).setLastValid)
  | .debounced => (.debounced, s)
  | .timeRegression => (.timeRegression, s)

end Sys2Proof.Machine
end

