-- ==== Sys2Proof/Machine/PulseDecoder.lean ====
section
/-! DEFINITION. PulseDecoder: the pure function PD_STEP of 40_pulse_decoder.md R100, one definition for each of its four
states (R102 to R105) and one for the completion of a frame (R106). -/

namespace Sys2Proof.Machine

/-- What PD_STEP returns: `(out, code, DSTATE', BITCNT', ACC')` (40_pulse_decoder.md R100). -/
structure PdResult where
  out : PdOut
  code : Code
  dstate : DState
  bitcnt : BitVec 4
  acc : BitVec 16
deriving DecidableEq, Repr

/-- The return to SeekingHeader with nothing of the frame left, which every outcome but NoSymbol makes (40_pulse_decoder.md
R107). -/
def foldBack (out : PdOut) (code : Code) : PdResult where
  out := out
  code := code
  dstate := .shIdle
  bitcnt := 0
  acc := 0

/-- ErrorReset with outcome ErrTiming (40_pulse_decoder.md R102 to R105). -/
def errTimingResult : PdResult := foldBack .errTiming 0

/-- A transition with outcome NoSymbol. -/
def goOn (d : DState) (n : BitVec 4) (a : BitVec 16) : PdResult where
  out := .noSymbol
  code := 0
  dstate := d
  bitcnt := n
  acc := a

/-- The command code of a frame, `ACC[7:0]` (30_encoding.md R78). -/
def commandByte (acc : BitVec 16) : Code := acc.extractLsb' 0 8

/-- The check byte of a frame, `ACC[15:8]` (30_encoding.md R78). -/
def checkByte (acc : BitVec 16) : Code := acc.extractLsb' 8 8

/-- `SH_IDLE`: look for a header mark (40_pulse_decoder.md R102). -/
def pdShIdle (cfg : Config) (iv : Timestamp) (isMark : Bool) : PdResult :=
  if isMarkOf cfg iv isMark .hdrMark then goOn .shMark 0 0 else errTimingResult

/-- `SH_MARK`: look for the header space or the repeat space (40_pulse_decoder.md R103). -/
def pdShMark (cfg : Config) (iv : Timestamp) (isMark : Bool) : PdResult :=
  if isSpaceOf cfg iv isMark .hdrSpace then goOn .rbMark 0 0
  else if isSpaceOf cfg iv isMark .rptSpace then foldBack .repeatCode 0
  else errTimingResult

/-- `RB_MARK`: look for the mark of data bit `BITCNT` (40_pulse_decoder.md R104). -/
def pdRbMark (cfg : Config) (bitcnt : BitVec 4) (acc : BitVec 16) (iv : Timestamp) (isMark : Bool) : PdResult :=
  if isMarkOf cfg iv isMark .bitMark then goOn .rbSpace bitcnt acc else errTimingResult

/-- COMPLETE: the complement check on 16 bits (40_pulse_decoder.md R106). -/
def complete (acc2 : BitVec 16) : PdResult :=
  if checkByte acc2 = ~~~commandByte acc2 then foldBack .symbol (commandByte acc2)
  else foldBack .errChecksum (commandByte acc2)

/-- `ACC` with data bit `BITCNT` ORed in (40_pulse_decoder.md R105). -/
def accWithBit (bitcnt : BitVec 4) (acc : BitVec 16) (b : Bool) : BitVec 16 :=
  acc ||| ((BitVec.ofBool b).setWidth 16 <<< bitcnt.toNat)

/-- Accumulate a data bit: go on to the next bit's mark, or complete the frame on the 16th (40_pulse_decoder.md R105). -/
def accumulate (bitcnt : BitVec 4) (acc : BitVec 16) (b : Bool) : PdResult :=
  if bitcnt.toNat + 1 < Config.frameBits then goOn .rbMark (bitcnt + 1) (accWithBit bitcnt acc b)
  else complete (accWithBit bitcnt acc b)

/-- `RB_SPACE`: classify the space of data bit `BITCNT` and accumulate it (40_pulse_decoder.md R105). -/
def pdRbSpace (cfg : Config) (bitcnt : BitVec 4) (acc : BitVec 16) (iv : Timestamp) (isMark : Bool) : PdResult :=
  if isSpaceOf cfg iv isMark .zeroSpace then accumulate bitcnt acc false
  else if isSpaceOf cfg iv isMark .oneSpace then accumulate bitcnt acc true
  else errTimingResult

/-- PD_STEP: exactly one transition, chosen by `DSTATE` (40_pulse_decoder.md R100). -/
def pdStep (cfg : Config) (d : DState) (bitcnt : BitVec 4) (acc : BitVec 16) (iv : Timestamp) (isMark : Bool) : PdResult :=
  match d with
  | .shIdle => pdShIdle cfg iv isMark
  | .shMark => pdShMark cfg iv isMark
  | .rbMark => pdRbMark cfg bitcnt acc iv isMark
  | .rbSpace => pdRbSpace cfg bitcnt acc iv isMark

end Sys2Proof.Machine
end

