-- ==== Sys2Proof/Machine/DecoderLoop.lean ====
section
/-! DEFINITION. DecoderLoop's transactions: EDGE (43_decoder_loop.md R180), DELIVER (R188) and NOP (R189). Reads see the
registers as they were at the start of the transaction (00_scope.md R11): each value EDGE computes is taken from `s`. -/

namespace Sys2Proof.Machine

/-- A symbol code as a trace value (30_encoding.md R76). -/
def symVal (sym : SymCode) : BitVec 8 := sym.setWidth 8

/-- The gate's part of an EDGE that decoded a mapped symbol (43_decoder_loop.md R186, R187; 42_debounce_gate.md R162, R164). -/
def gateSymbol (now : Instant) (sym : SymCode) (s : State) : State :=
  match accept now sym s with
  | (.accepted, s') => ((s'.setOutSym sym).setOutValid).record .accepted (symVal sym)
  | (.debounced, s') => s'.record .debounced (symVal sym)
  | (.timeRegression, s') => s'.takeFault .timeRegression

/-- Map, then gate (43_decoder_loop.md R186); an unmapped code never reaches the gate (41_command_mapper.md R143). -/
def mapThenGate (now : Instant) (code : Code) (s : State) : State :=
  match mapCode s.cfg code with
  | none => s.record .unmapped code
  | some sym => gateSymbol now sym s

/-- What an EDGE does with PulseDecoder's outcome (the `case out` of 43_decoder_loop.md R180). -/
def handleOutcome (now : Instant) (out : PdOut) (code : Code) (s : State) : State :=
  match out with
  | .noSymbol => s.record .noSym 0
  | .repeatCode => s.record .repeatCode 0
  | .errTiming => s.record .errTiming 0
  | .errChecksum => s.record .errChecksum code
  | .symbol => mapThenGate now code s

/-- The one PD_STEP call of a consumed edge: the interval since `PREV_TS`, with `POL` as its role (43_decoder_loop.md R182,
R184, R185). -/
def decodeEdge (ts : Timestamp) (s : State) : PdResult :=
  pdStep s.cfg s.dstate s.bitcnt s.acc (interval ts s.prevTs) s.pol

/-- The effect of `EDGE ts, now` (43_decoder_loop.md R180). -/
def edgeEffect (ts : Timestamp) (now : Instant) (s : State) : State :=
  if s.outValid then s.record .lost 0
  else if s.prevValid = false then (s.consumeEdge ts).setPrevValid.record .primed 0
  else handleOutcome now (decodeEdge ts s).out (decodeEdge ts s).code
    ((s.consumeEdge ts).writeDecoder (decodeEdge ts s).dstate (decodeEdge ts s).bitcnt (decodeEdge ts s).acc)

/-- The effect of DELIVER (43_decoder_loop.md R188). -/
def deliverEffect (s : State) : State :=
  if s.outValid then (s.emit s.outSym).clearOutValid.record .delivered (symVal s.outSym)
  else s.record .idle 0

/-- EDGE (43_decoder_loop.md R180). A model fault is recorded in the next state (60_exceptions.md R230). -/
def execEdge (ts : Timestamp) (now : Instant) (s : State) : Host.Outcome State Fault Refusal :=
  .next (edgeEffect ts now s)

/-- DELIVER (43_decoder_loop.md R188). -/
def execDeliver (s : State) : Host.Outcome State Fault Refusal := .next (deliverEffect s)

/-- NOP (43_decoder_loop.md R189). -/
def execNop (s : State) : Host.Outcome State Fault Refusal := .next (s.record .idle 0)

end Sys2Proof.Machine
end

