-- ==== Sys2Proof/Machine/Reset.lean ====
section
/-! DEFINITION. The transaction RESET (70_reset_and_hazards.md R260). -/

namespace Sys2Proof.Machine

/-- Every register takes its reset value; `CONFIG`, `FAULT`, `TRACE` and `DELIVERED` stay (70_reset_and_hazards.md R260). -/
def State.resetRegisters (s : State) : State :=
  { s with
    dstate := .shIdle, bitcnt := 0, acc := 0, prevTs := 0, prevValid := false, pol := s.cfg.polInit,
    lastAcc := 0, lastValid := false, outValid := false, outSym := 0 }

/-- RESET (70_reset_and_hazards.md R260). -/
def execReset (s : State) : Host.Outcome State Fault Refusal := .next (s.resetRegisters.record .reset 0)

end Sys2Proof.Machine
end

