-- ==== Sys2Proof/Machine/Dispatch.lean ====
section
/-! DEFINITION. One arm for each transaction of 30_encoding.md R70, each calling its meaning. -/

namespace Sys2Proof.Machine

def exec (i : Instr) (s : State) : Host.Outcome State Fault Refusal :=
  match i with
  | .nop => Sys2Proof.Machine.execNop s
  | .edge ts now => Sys2Proof.Machine.execEdge ts now s
  | .deliver => Sys2Proof.Machine.execDeliver s
  | .reset => Sys2Proof.Machine.execReset s

end Sys2Proof.Machine
end

