-- ==== Sys2Proof/Machine/Stream.lean ====
section
/-! DEFINITION. What surrounds one transaction: when the machine can take none, and what a word of the stream does. -/

namespace Sys2Proof.Machine

/-- Why no transaction can run: an ill-formed `CONFIG` has no run (10_state.md R31), and a recorded fault leaves the machine
stuck, whatever the next word is (60_exceptions.md R230). -/
def blocked (s : State) : Option (Host.Outcome State Fault Refusal) :=
  if s.cfg.wf then s.stuckFault.map .fault else some (.refused .illFormedConfig)

/-- One word of the stream: the transaction it stands for runs; an illegal word is refused, which records the model fault and
changes no register (30_encoding.md R79(b)). -/
def runWord (w : TxWord) (s : State) : Host.Outcome State Fault Refusal :=
  match decode w with
  | .legal i => exec i s
  | .illegal _ => .next (s.takeFault .refusedWord)

/-- One step over the stream: the next word is taken off and run. With no word there, no transaction happens and all state
survives the wait unchanged (60_exceptions.md R239). (DEDUCED, safe: log entry 4.) -/
def runStream (s : State) : Host.Outcome State Fault Refusal :=
  match s.input with
  | [] => .next s
  | w :: rest => runWord w { s with input := rest }

/-- Present a word as the next of the stream. -/
def State.present (w : TxWord) (s : State) : State := { s with input := w :: s.input }

end Sys2Proof.Machine
end

