-- ==== Sys2Proof/Machine/Step.lean ====
section
/-! DEFINITION. One step of IRDEC: one transaction of the stream (30_encoding.md R70, 20_memory.md R58). -/

namespace Sys2Proof.Machine

/-- One step: nothing where the machine is blocked (Stream.lean), else the next transaction. -/
def step (s : State) : Host.Outcome State Fault Refusal :=
  match blocked s with
  | some o => o
  | none => runStream s

/-- `s` with a word presented as the next transaction. -/
def State.withFetchWord (s : State) (nbits w : Nat) : State := s.present (wordOfBits nbits w)

end Sys2Proof.Machine
end

