-- ==== Sys2Proof/Machine/Frame.lean ====
section
/-! DEFINITION. The on-air format of 30_encoding.md R77 and R78: the roles and nominal durations of a data frame and of a
repeat code, in the order they go on air, and PulseDecoder run over a sequence of intervals. -/

namespace Sys2Proof.Machine

/-- One interval of a transmission: its role (true for a mark) and its nominal duration (30_encoding.md R77). -/
abbrev Slot := Bool × Nominal

/-- The mark and the space of one data bit (30_encoding.md R77). -/
def bitSlots (b : Bool) : List Slot := [(true, .bitMark), (false, if b then .oneSpace else .zeroSpace)]

/-- The eight bits of a byte, least significant first (30_encoding.md R78). -/
def byteSlots (c : Code) : List Slot := (List.range 8).flatMap fun i => bitSlots (c.getLsbD i)

/-- The header (30_encoding.md R77). -/
def headerSlots : List Slot := [(true, .hdrMark), (false, .hdrSpace)]

/-- Intervals 1 to 34 of a data frame with first byte `c` and second byte `k` (30_encoding.md R77, R78). -/
def frameSlots (c k : Code) : List Slot := headerSlots ++ byteSlots c ++ byteSlots k

/-- The trailing stop mark, which IRDEC does not require (30_encoding.md R77; 40_pulse_decoder.md R107). -/
def stopSlot : Slot := (true, .bitMark)

/-- A repeat code: header mark, repeat space, stop mark (30_encoding.md R77). -/
def repeatSlots : List Slot := [(true, .hdrMark), (false, .rptSpace), stopSlot]

/-- The intervals `ivs` have, one for one, durations in the bands of `slots`. -/
def inBands (cfg : Config) (slots : List Slot) (ivs : List Timestamp) : Prop :=
  List.Forall₂ (fun slot iv => inBand cfg iv slot.2 = true) slots ivs

/-- The results of PD_STEP over a sequence of `(is_mark, iv)`, each call going on from the registers the one before it
returned (43_decoder_loop.md R185). -/
def pdRun (cfg : Config) (d : DState) (bitcnt : BitVec 4) (acc : BitVec 16) : List (Bool × Timestamp) → List PdResult
  | [] => []
  | (isMark, iv) :: rest =>
    pdStep cfg d bitcnt acc iv isMark ::
      pdRun cfg (pdStep cfg d bitcnt acc iv isMark).dstate (pdStep cfg d bitcnt acc iv isMark).bitcnt
        (pdStep cfg d bitcnt acc iv isMark).acc rest

/-- The EDGE words whose intervals, from `prev` on, are `ivs`, each with its `now` (43_decoder_loop.md R182). -/
def edgesFrom (prev : Timestamp) : List (Timestamp × Instant) → List Instr
  | [] => []
  | (iv, now) :: rest => .edge (prev + iv) now :: edgesFrom (prev + iv) rest

end Sys2Proof.Machine
end

