-- ==== Sys2Proof/Machine/Assembler.lean ====
section
/-! DEFINITION. The stimulus assembler: the text form of 30_encoding.md R82 and the pseudo-instructions and directives of R83.
It is "a notation for stimulus, not part of the hardware" (92_eei_decisions.md D3). Text is held as a list of characters. -/

namespace Sys2Proof.Machine

/-- One line of stimulus (30_encoding.md R82, R83). -/
inductive AsmLine where
  | nop | deliver | reset
  | edge (ts now : Nat)
  | time (t n : Nat)
  | start | mark (d : Nat) | space (d : Nat) | gap (d : Nat)
  | hdr | bit0 | bit1 | stop
  | frame (c k : Nat) | nec16 (c : Nat)
  | rptc | take
deriving DecidableEq, Repr

/-- Why the assembler rejects a line. -/
inductive AsmError where
  /-- A `ts` over 32 bits, a `now` over 64 bits, or a frame byte over 8 bits (30_encoding.md R82; log entry 11). -/
  | operandTooWide
  /-- A timed pseudo-instruction before any `.time` (log entry 11). -/
  | noTimeSet
  /-- A FRAME that does not follow an edge that ended a space (30_encoding.md R83). -/
  | frameNotAfterSpace
  /-- Text that is no line of 30_encoding.md R82 or R83. -/
  | badSyntax
deriving DecidableEq, Repr

/-- What the assembler answers. -/
inductive Assembled (α : Type) where
  | ok (a : α)
  | error (why : AsmError)
deriving DecidableEq, Repr

/-- The running time `t`, `n`, once set, and whether the last edge it emitted is named as the end of a space (30_encoding.md
R83). -/
structure AsmState where
  clock : Option (Timestamp × Instant)
  afterSpace : Bool
deriving DecidableEq, Repr

/-- The assembler before its first line: no time is set (log entry 11). -/
def AsmState.initial : AsmState := ⟨none, false⟩

/-- Do one thing after another, passing the assembler's state on and stopping at the first error. -/
def asmThen (r : Assembled (AsmState × List Instr)) (next : AsmState → Assembled (AsmState × List Instr)) :
    Assembled (AsmState × List Instr) :=
  match r with
  | .error e => .error e
  | .ok (st, is) =>
    match next st with
    | .error e => .error e
    | .ok (st', is') => .ok (st', is ++ is')

/-- `.time T, N`: `t <- T mod 2^32`, `n <- N` (30_encoding.md R83). -/
def asmTime (t n : Nat) : Assembled (AsmState × List Instr) :=
  if n < 2 ^ 64 then .ok (⟨some (BitVec.ofNat 32 t, BitVec.ofNat 64 n), false⟩, []) else .error .operandTooWide

/-- START: `EDGE t, n`, the edge that ends the idle line, which is a space (30_encoding.md R83). -/
def asmStart (st : AsmState) : Assembled (AsmState × List Instr) :=
  match st.clock with
  | none => .error .noTimeSet
  | some (t, n) => .ok (⟨st.clock, true⟩, [.edge t n])

/-- MARK and SPACE: `t <- (t + d) mod 2^32`, `n <- n + d`, then `EDGE t, n`; the name records the role (30_encoding.md R83). -/
def asmAdvance (isMark : Bool) (d : Nat) (st : AsmState) : Assembled (AsmState × List Instr) :=
  match st.clock with
  | none => .error .noTimeSet
  | some (t, n) =>
    if n.toNat + d < 2 ^ 64 then
      .ok (⟨some (t + BitVec.ofNat 32 d, n + BitVec.ofNat 64 d), !isMark⟩,
        [.edge (t + BitVec.ofNat 32 d) (n + BitVec.ofNat 64 d)])
    else .error .operandTooWide

/-- A sequence of marks and spaces at their nominal durations, "the reference values of 00_scope.md rule R8" (30_encoding.md
R83). -/
def asmSlots (slots : List Slot) (st : AsmState) : Assembled (AsmState × List Instr) :=
  match slots with
  | [] => .ok (st, [])
  | slot :: rest => asmThen (asmAdvance slot.1 (Config.reference.nominal slot.2).toNat st) (asmSlots rest)

/-- FRAME c, k: 34 EDGEs, with no stop mark; "it must follow an edge that ended a space" (30_encoding.md R83). -/
def asmFrame (c k : Nat) (st : AsmState) : Assembled (AsmState × List Instr) :=
  if 256 ≤ c ∨ 256 ≤ k then .error .operandTooWide
  else if st.afterSpace = false then .error .frameNotAfterSpace
  else asmSlots (frameSlots (BitVec.ofNat 8 c) (BitVec.ofNat 8 k)) st

/-- EDGE ts, now: the assembler rejects a value that does not fit (30_encoding.md R82). -/
def asmEdge (ts now : Nat) (st : AsmState) : Assembled (AsmState × List Instr) :=
  if ts < 2 ^ 32 ∧ now < 2 ^ 64 then
    .ok (⟨st.clock, false⟩, [.edge (BitVec.ofNat 32 ts) (BitVec.ofNat 64 now)])
  else .error .operandTooWide

/-- The expansion of one line (30_encoding.md R82, R83). -/
def asmLine (line : AsmLine) (st : AsmState) : Assembled (AsmState × List Instr) :=
  match line with
  | .nop => .ok (st, [.nop])
  | .deliver => .ok (st, [.deliver])
  | .reset => .ok (st, [.reset])
  | .edge ts now => asmEdge ts now st
  | .time t n => asmTime t n
  | .start => asmStart st
  | .mark d => asmAdvance true d st
  | .space d => asmAdvance false d st
  | .gap d => asmAdvance false d st
  | .hdr => asmSlots headerSlots st
  | .bit0 => asmSlots (bitSlots false) st
  | .bit1 => asmSlots (bitSlots true) st
  | .stop => asmSlots [stopSlot] st
  | .frame c k => asmFrame c k st
  | .nec16 c => asmFrame c (255 - c % 256) st
  | .rptc => asmSlots repeatSlots st
  | .take => .ok (st, [.deliver])

/-- A stimulus program is straight-line (30_encoding.md R82). -/
def asmProgram (lines : List AsmLine) (st : AsmState) : Assembled (AsmState × List Instr) :=
  match lines with
  | [] => .ok (st, [])
  | line :: rest => asmThen (asmLine line st) (asmProgram rest)

/-- The value of a digit character, decimal or `hex`. -/
def digitValue (hex : Bool) (ch : Char) : Option Nat :=
  if 48 ≤ ch.toNat ∧ ch.toNat ≤ 57 then some (ch.toNat - 48)
  else if hex = true ∧ 97 ≤ ch.toNat ∧ ch.toNat ≤ 102 then some (ch.toNat - 87)
  else if hex = true ∧ 65 ≤ ch.toNat ∧ ch.toNat ≤ 70 then some (ch.toNat - 55)
  else none

/-- The value of a run of digits, most significant first. -/
def digitsValue (hex : Bool) (so_far : Nat) (cs : List Char) : Option Nat :=
  match cs with
  | [] => some so_far
  | c :: rest =>
    match digitValue hex c with
    | none => none
    | some v => digitsValue hex (so_far * (if hex then 16 else 10) + v) rest

/-- A number is decimal or `0x` hex (30_encoding.md R82). -/
def parseNumber (cs : List Char) : Option Nat :=
  match cs with
  | [] => none
  | '0' :: 'x' :: [] => none
  | '0' :: 'x' :: rest => digitsValue true 0 rest
  | _ => digitsValue false 0 cs

/-- Put a finished word, held backwards, in front of the words after it. -/
def flushWord (backwards : List Char) (rest : List (List Char)) : List (List Char) :=
  if backwards.isEmpty then rest else backwards.reverse :: rest

/-- Split a line into words; a comma is a word, and `;` starts a comment that runs to the end of the line (30_encoding.md
R82). -/
def splitWords (backwards : List Char) (cs : List Char) : List (List Char) :=
  match cs with
  | [] => flushWord backwards []
  | c :: rest =>
    if c = ';' then flushWord backwards []
    else if c = ' ' ∨ c = '\t' ∨ c = '\r' then flushWord backwards (splitWords [] rest)
    else if c = ',' then flushWord backwards ([','] :: splitWords [] rest)
    else splitWords (c :: backwards) rest

/-- The names that take no number (30_encoding.md R82, R83). -/
def plainNames : List (List Char × AsmLine) :=
  [(['N', 'O', 'P'], .nop), (['D', 'E', 'L', 'I', 'V', 'E', 'R'], .deliver), (['R', 'E', 'S', 'E', 'T'], .reset),
   (['S', 'T', 'A', 'R', 'T'], .start), (['H', 'D', 'R'], .hdr), (['B', 'I', 'T', '0'], .bit0),
   (['B', 'I', 'T', '1'], .bit1), (['S', 'T', 'O', 'P'], .stop), (['R', 'P', 'T', 'C'], .rptc),
   (['T', 'A', 'K', 'E'], .take)]

/-- The names that take one number (30_encoding.md R83). -/
def oneNumberLine (name : List Char) (d : Nat) : Option AsmLine :=
  if name = ['M', 'A', 'R', 'K'] then some (.mark d)
  else if name = ['S', 'P', 'A', 'C', 'E'] then some (.space d)
  else if name = ['G', 'A', 'P'] then some (.gap d)
  else if name = ['N', 'E', 'C', '1', '6'] then some (.nec16 d)
  else none

/-- The names that take two numbers (30_encoding.md R82, R83). -/
def twoNumberLine (name : List Char) (a b : Nat) : Option AsmLine :=
  if name = ['E', 'D', 'G', 'E'] then some (.edge a b)
  else if name = ['.', 't', 'i', 'm', 'e'] then some (.time a b)
  else if name = ['F', 'R', 'A', 'M', 'E'] then some (.frame a b)
  else none

/-- A line from its words. -/
def lineOfWords (words : List (List Char)) : Option AsmLine :=
  match words with
  | [name] => (plainNames.find? fun p => p.1 == name).map Prod.snd
  | [name, a] => (parseNumber a).bind (oneNumberLine name)
  | [name, a, [','], b] => (parseNumber a).bind fun x => (parseNumber b).bind (twoNumberLine name x)
  | _ => none

/-- One line of text; an empty line, or a line of comment alone, holds nothing (30_encoding.md R82). -/
def parseLine (cs : List Char) : Assembled (List AsmLine) :=
  match splitWords [] cs with
  | [] => .ok []
  | words =>
    match lineOfWords words with
    | none => .error .badSyntax
    | some line => .ok [line]

end Sys2Proof.Machine
end

