-- ==== Sys2Proof/Machine/Codes.lean ====
section
/-! DEFINITION. The numbers behind the names: `DSTATE` (10_state.md R21), PulseDecoder's outcomes (30_encoding.md R75), the
trace dispositions (R76), and the trace entry as a 12-bit word. -/

namespace Sys2Proof.Machine

/-- The value `DSTATE[1:0]` holds (10_state.md R21). -/
def dstateCode (d : DState) : BitVec 2 :=
  match d with
  | .shIdle => 0
  | .shMark => 1
  | .rbMark => 2
  | .rbSpace => 3

/-- The position a value of `DSTATE[1:0]` stands for; all four are legal (10_state.md R21). -/
def dstateOfCode (c : BitVec 2) : DState :=
  if c = 0 then .shIdle else if c = 1 then .shMark else if c = 2 then .rbMark else .rbSpace

/-- The 3-bit code of an outcome; 5 to 7 are reserved and never produced (30_encoding.md R75). -/
def outcomeCode (o : PdOut) : BitVec 3 :=
  match o with
  | .noSymbol => 0
  | .symbol => 1
  | .repeatCode => 2
  | .errTiming => 3
  | .errChecksum => 4

/-- The 4-bit code of a disposition; 14 and 15 are reserved and never produced (30_encoding.md R76). -/
def dispositionCode (d : Disposition) : BitVec 4 :=
  match d with
  | .idle => 0
  | .primed => 1
  | .noSym => 2
  | .repeatCode => 3
  | .errTiming => 4
  | .errChecksum => 5
  | .unmapped => 6
  | .debounced => 7
  | .accepted => 8
  | .lost => 9
  | .delivered => 10
  | .reset => 11
  | .refused => 12
  | .fault => 13

/-- A trace entry as `{disp[3:0], val[7:0]}` (30_encoding.md R76). -/
def traceWord (e : TraceEntry) : BitVec 12 := dispositionCode e.disp ++ e.val

end Sys2Proof.Machine
end

