-- ==== Sys2Proof/Machine/Ports.lean ====
section
/-! DEFINITION. The ports of a clocked implementation (30_encoding.md R71) and the order in which one cycle's simultaneous
requests become transactions (60_exceptions.md R228). -/

namespace Sys2Proof.Machine

/-- The input signals of one cycle (30_encoding.md R71). -/
structure PortInputs where
  edgeValid : Bool
  edgeTs : Timestamp
  now : Instant
  symReady : Bool
  rst : Bool
deriving DecidableEq, Repr

/-- The output signals (30_encoding.md R71). -/
structure PortOutputs where
  edgeReady : Bool
  symValid : Bool
  symData : SymCode
deriving DecidableEq, Repr

/-- What the outside world can see of a state (30_encoding.md R71; 10_state.md R35). -/
def portOutputs (s : State) : PortOutputs where
  edgeReady := edgeReady s
  symValid := symValid s
  symData := s.outSym

/-- The EDGE of a cycle, if EdgeSource presents one. -/
def edgeRequest (p : PortInputs) : List Instr := if p.edgeValid then [.edge p.edgeTs p.now] else []

/-- The transactions of one cycle, in order (60_exceptions.md R228): `rst` wins and the rest is ignored; else `sym_ready` with
`OUT_VALID == 1` is a DELIVER, before the edge. A cycle with neither is one step all the same: a DELIVER with nothing pending
if `sym_ready == 1` (30_encoding.md R71), else NOP. An edge in a cycle with `sym_ready == 1` and nothing pending is the EDGE
alone. (DEDUCED: log entry 10.) -/
def serialise (p : PortInputs) (outValid : Bool) : List Instr :=
  if p.rst then [.reset]
  else if p.symReady && outValid then .deliver :: edgeRequest p
  else if p.edgeValid then edgeRequest p
  else if p.symReady then [.deliver]
  else [.nop]

/-- A cycle's transactions, placed at the end of the stream. If words wait there already, the cycle is judged by `OUT_VALID` as
it is now, not as those words will leave it: the ports of an implementation and a waiting stream are not mixed in the spec.
(DESIGN CHOICE: log entry 17.) -/
def State.portCycle (p : PortInputs) (s : State) : State :=
  { s with input := s.input ++ (serialise p s.outValid).map encode }

end Sys2Proof.Machine
end

