-- ==== Sys2Proof/Safety.lean ====
section
/-! DEFINITION. The terms in which claims about a run are stated: the register invariants of 10_state.md R36, the contract the
stimulus owes IRDEC (60_exceptions.md R230, 70_reset_and_hazards.md R264, R266), and `DELIVERED` read off the trace
(43_decoder_loop.md R192). -/

namespace Sys2Proof.Machine

/-- `n` steps of the machine, stopping at the first fault or refusal. -/
def run (n : Nat) (s : State) : Host.Outcome State Fault Refusal := Host.Core.run core n s

/-- "No fault recorded", the premise of every claim about IRDEC (60_exceptions.md R230). -/
abbrev State.NoFault (s : State) : Prop := s.fault = 0

/-- The machine can take transactions: its `CONFIG` is well-formed and no fault is recorded (10_state.md R31,
60_exceptions.md R230). -/
abbrev State.Running (s : State) : Prop := s.cfg.wf = true ∧ s.NoFault

/-- The register invariants (a) to (d) of 10_state.md R36. -/
abbrev State.RegistersOk (s : State) : Prop :=
  ((s.dstate = .shIdle ∨ s.dstate = .shMark) → s.bitcnt = 0 ∧ s.acc = 0) ∧
  s.acc >>> s.bitcnt.toNat = 0 ∧
  s.bitcnt.toNat ≤ 15 ∧
  (s.outValid = true → s.outSym.toNat ≤ 11)

/-- PulseDecoder is in its reset state (70_reset_and_hazards.md R261). -/
abbrev State.DecoderIdle (s : State) : Prop := s.dstate = .shIdle ∧ s.bitcnt = 0 ∧ s.acc = 0

/-- The words are all legal and the `now` values of the EDGEs never decrease, from `floor` on; a RESET starts afresh
(70_reset_and_hazards.md R266, 30_encoding.md R79). -/
def nowsRise (floor : Nat) : List TxWord → Bool
  | [] => true
  | w :: rest =>
    match decode w with
    | .legal (.edge _ now) => decide (floor ≤ now.toNat) && nowsRise now.toNat rest
    | .legal .reset => nowsRise 0 rest
    | .legal .nop => nowsRise floor rest
    | .legal .deliver => nowsRise floor rest
    | .illegal _ => false

/-- The machine is running and the stimulus still to come keeps IRDEC's contract. -/
def State.WithinContract (s : State) : Prop :=
  s.Running ∧ ∃ floor : Nat, (s.lastValid = true → s.lastAcc.toNat ≤ floor) ∧ nowsRise floor s.input = true

/-- The symbol waiting for EventSink, if any. -/
def State.pending (s : State) : Option SymCode := if s.outValid then some s.outSym else none

/-- What one trace entry does to (symbols delivered, symbol pending): ACCEPTED makes its symbol pending, DELIVERED hands the
pending one over, RESET drops it (43_decoder_loop.md R187, R188; 70_reset_and_hazards.md R260). -/
def replayEntry (r : List SymCode × Option SymCode) (e : TraceEntry) : List SymCode × Option SymCode :=
  match e.disp with
  | .accepted => (r.1, some (e.val.setWidth 4))
  | .delivered => (r.1 ++ r.2.toList, none)
  | .reset => (r.1, none)
  | _ => r

/-- What a whole trace says was delivered and is pending. -/
def replayTrace (trace : List TraceEntry) : List SymCode × Option SymCode := trace.foldl replayEntry ([], none)

/-- `DELIVERED` and the pending symbol are what the trace says (43_decoder_loop.md R192). -/
abbrev State.DeliveriesMatchTrace (s : State) : Prop := replayTrace s.trace = (s.delivered, s.pending)

end Sys2Proof.Machine
end

