-- ==== Sys2Proof/Certificates/Slice0/Obligations.lean ====
section
/-! DEFINITION. The statements about IRDEC, each with the rule of spec/ it formalises. IRDEC has no memory that a transaction
could write (20_memory.md R52), so a frame here says what becomes of the ten registers, `CONFIG`, `FAULT`, `TRACE`, `DELIVERED`
and the stream; most statements give the whole next state. -/

open Sys2Proof Sys2Proof.Machine

/-! ## Words -/

/-- The words of 95_test_vectors.md sections 2.6 to 2.9 decode as written there. -/
def Obligations.SpecWordsDecodeAsWritten : Prop :=
  decode 0x00000000000000000000000000000000#128 = .legal .nop ∧
  decode 0x40000000000003E800000000000003E8#128 = .legal (.edge 1000 1000) ∧
  decode 0x40000000FFFFFF000000000000000005#128 = .legal (.edge 0xFFFFFF00 5) ∧
  decode 0x40000000FFFFFFFFFFFFFFFFFFFFFFFF#128 = .legal (.edge 0xFFFFFFFF 0xFFFFFFFFFFFFFFFF) ∧
  decode 0x80000000000000000000000000000000#128 = .legal .deliver ∧
  decode 0xC0000000000000000000000000000000#128 = .legal .reset ∧
  decode 0x40000001000000000000000000000000#128 = .illegal .edgeReserved ∧
  decode 0x60000000000000000000000000000000#128 = .illegal .edgeReserved ∧
  decode 0x00000000000000000000000000000001#128 = .illegal .nopOperand ∧
  decode 0x80000000000000000000000000000001#128 = .illegal .deliverOperand ∧
  decode 0xC0000000000000010000000000000000#128 = .illegal .resetOperand

/-- The opcode map R81, row by row, and EDGE's operands R73: a word is a row's exactly when under the row's mask it equals the
row's match value, and EDGE's operands are `word[95:64]` and `word[63:0]`. -/
def Obligations.WordsDecodeByTheOpcodeMap : Prop :=
  (∀ w : TxWord,
    (w = 0x00000000000000000000000000000000#128 ↔ decode w = .legal .nop) ∧
    (w &&& 0xFFFFFFFF000000000000000000000000#128 = 0x40000000000000000000000000000000#128 ↔
      decode w = .legal (.edge (w.extractLsb' 64 32) (w.extractLsb' 0 64))) ∧
    (∀ ts now, decode w = .legal (.edge ts now) → ts = w.extractLsb' 64 32 ∧ now = w.extractLsb' 0 64) ∧
    (w = 0x80000000000000000000000000000000#128 ↔ decode w = .legal .deliver) ∧
    (w = 0xC0000000000000000000000000000000#128 ↔ decode w = .legal .reset)) ∧
  encode (.edge 9000 9000) = 0x40000000000023280000000000002328#128

/-- Decode undoes encode: no bit of an operand is dropped (R72, R73). -/
def Obligations.DecodeEncodeAgree : Prop := ∀ i : Instr, decode (encode i) = .legal i

/-- Encode undoes decode: each legal word is the word of the transaction it decodes to, so no two words share a meaning. -/
def Obligations.EncodeDecodeAgree : Prop := ∀ (w : TxWord) (i : Instr), decode w = .legal i → encode i = w

/-- R79(a): a word decodes if and only if it matches exactly one row of the opcode map. -/
def Obligations.LegalWordsAreThoseThatDecode : Prop :=
  ∀ w : TxWord, (∃ i, decode w = .legal i) ↔ wordLegal w = true

/-! ## The step -/

/-- A running machine runs the transaction its next word stands for, on the state with that word taken off the stream. -/
def Obligations.StepRunsTheDecodedTransaction : Prop :=
  ∀ (s : State) (w : TxWord) (rest : List TxWord) (i : Instr),
    s.Running → s.input = w :: rest → decode w = .legal i → step s = exec i { s with input := rest }

/-- R239: with no transaction, all state survives the wait unchanged. (That an empty stream stands for "no transaction happens"
is the model's reading: log entry 4.) -/
def Obligations.WaitingKeepsAllState : Prop := ∀ s : State, s.Running → s.input = [] → step s = .next s

/-- R31: the model refuses an ill-formed `CONFIG`, whatever the rest of the state. -/
def Obligations.IllFormedConfigHasNoRun : Prop := ∀ s : State, s.cfg.wf = false → step s = .refused .illFormedConfig

/-- R79(b), R230: a word that is no transaction's changes no register, is traced REFUSED, sets `FAULT` bit 1, and leaves the
machine stuck. (That the refusal is recorded in a next state and the fault answered by the step after it is the model's reading:
log entry 5.) -/
def Obligations.IllegalWordIsRefusedThenStuck : Prop :=
  ∀ (s : State) (w : TxWord) (rest : List TxWord),
    s.Running → s.input = w :: rest → (∀ i, encode i ≠ w) →
      ∃ t, step s = .next t ∧
        t = { s with input := rest, fault := 0b10, trace := s.trace ++ [⟨.refused, 0⟩] } ∧
        step t = .fault .refusedWord

/-- R230: once `FAULT` is not 0 the machine takes no step, whatever word comes next, and no transaction clears a bit of it. -/
def Obligations.RecordedFaultsAreSticky : Prop :=
  (∀ s : State, s.cfg.wf = true → s.fault ≠ 0 → ∃ f, step s = .fault f) ∧
  (∀ (i : Instr) (s t : State), exec i s = .next t → t.fault &&& s.fault = s.fault)

/-- R31: no step writes `CONFIG`. -/
def Obligations.ConfigIsNeverWritten : Prop := ∀ s t : State, step s = .next t → t.cfg = s.cfg

/-- R76: each step that takes a word takes exactly one, and adds exactly one entry to `TRACE`, of a kind the transaction can
have. -/
def Obligations.EachTransactionRecordsOneDisposition : Prop :=
  ∀ (s t : State) (w : TxWord) (rest : List TxWord),
    s.input = w :: rest → step s = .next t →
      ∃ e : TraceEntry, t.trace = s.trace ++ [e] ∧ t.input = rest ∧
        (decode w = .legal .nop → e = ⟨.idle, 0⟩) ∧
        (decode w = .legal .reset → e = ⟨.reset, 0⟩) ∧
        (decode w = .legal .deliver → e.disp = .idle ∨ e.disp = .delivered) ∧
        (∀ ts now, decode w = .legal (.edge ts now) →
          e.disp ∈ [.primed, .noSym, .repeatCode, .errTiming, .errChecksum, .unmapped, .debounced, .accepted, .lost, .fault]) ∧
        (∀ why, decode w = .illegal why → e = ⟨.refused, 0⟩)

/-! ## Bands and PulseDecoder -/

/-- R9: `LO` is the rounded-up and `HI` the rounded-down end of each band, and the table of this hardware's bands. -/
def Obligations.ReferenceBandTable : Prop :=
  (∀ n p : Nat, p ≤ 100 →
    n * (100 - p) ≤ 100 * bandLo n p ∧ 100 * bandLo n p < n * (100 - p) + 100 ∧
    100 * bandHi n p ≤ n * (100 + p) ∧ n * (100 + p) < 100 * bandHi n p + 100) ∧
  (∀ (cfg : Config) (n : Nominal),
    band cfg n = (bandLo (cfg.nominal n).toNat cfg.tolPct.toNat, bandHi (cfg.nominal n).toNat cfg.tolPct.toNat)) ∧
  band Config.reference .hdrMark = (6750, 11250) ∧
  band Config.reference .hdrSpace = (3375, 5625) ∧
  band Config.reference .rptSpace = (1688, 2812) ∧
  band Config.reference .bitMark = (422, 702) ∧
  band Config.reference .zeroSpace = (422, 702) ∧
  band Config.reference .oneSpace = (1266, 2108)

/-- R101: the tolerance test, its equivalent form by the two inclusive ends of the band, and the role test. -/
def Obligations.ToleranceAndRoleTests : Prop :=
  (∀ (cfg : Config) (iv : Timestamp) (n : Nominal),
    (inBand cfg iv n = true ↔
      100 * iv.toNat ≥ (cfg.nominal n).toNat * (100 - cfg.tolPct.toNat) ∧
      100 * iv.toNat ≤ (cfg.nominal n).toNat * (100 + cfg.tolPct.toNat)) ∧
    (inBand cfg iv n = true ↔ (band cfg n).1 ≤ iv.toNat ∧ iv.toNat ≤ (band cfg n).2)) ∧
  (∀ (cfg : Config) (isMark want : Bool), roleOk cfg isMark want = true ↔ cfg.polCheck = false ∨ isMark = want) ∧
  Config.reference.tolPct = 25

/-- R102, R103: what SeekingHeader does with an interval, for every configuration, and the corner cases named there. -/
def Obligations.SeekingHeaderTransitions : Prop :=
  (∀ (cfg : Config) (n : BitVec 4) (a : BitVec 16) (iv : Timestamp) (isMark : Bool),
    pdStep cfg .shIdle n a iv isMark =
      (if roleOk cfg isMark true = true ∧ inBand cfg iv .hdrMark = true then ⟨.noSymbol, 0, .shMark, 0, 0⟩
       else ⟨.errTiming, 0, .shIdle, 0, 0⟩) ∧
    pdStep cfg .shMark n a iv isMark =
      (if roleOk cfg isMark false = true ∧ inBand cfg iv .hdrSpace = true then ⟨.noSymbol, 0, .rbMark, 0, 0⟩
       else if roleOk cfg isMark false = true ∧ inBand cfg iv .rptSpace = true then ⟨.repeatCode, 0, .shIdle, 0, 0⟩
       else ⟨.errTiming, 0, .shIdle, 0, 0⟩)) ∧
  (∀ (cfg : Config) (n : Nominal), cfg.wf = true → inBand cfg 0 n = false) ∧
  (∀ (cfg : Config) (iv : Timestamp), cfg.wf = true →
    ¬ (inBand cfg iv .hdrSpace = true ∧ inBand cfg iv .rptSpace = true)) ∧
  (∀ (iv : Timestamp) (isMark : Bool),
    ((pdStep Config.reference .shIdle 0 0 iv isMark).out = .noSymbol ↔
      isMark = true ∧ 6750 ≤ iv.toNat ∧ iv.toNat ≤ 11250) ∧
    ((pdStep { Config.reference with polCheck := false } .shIdle 0 0 iv isMark).out = .noSymbol ↔
      6750 ≤ iv.toNat ∧ iv.toNat ≤ 11250) ∧
    ((pdStep Config.reference .shMark 0 0 iv isMark).out = .noSymbol ↔
      isMark = false ∧ 3375 ≤ iv.toNat ∧ iv.toNat ≤ 5625) ∧
    ((pdStep Config.reference .shMark 0 0 iv isMark).out = .repeatCode ↔
      isMark = false ∧ 1688 ≤ iv.toNat ∧ iv.toNat ≤ 2812))

/-- R104, R105: what ReadingBits does with an interval, for every configuration, and the corner cases named there. -/
def Obligations.ReadingBitsTransitions : Prop :=
  (∀ (cfg : Config) (n : BitVec 4) (a : BitVec 16) (iv : Timestamp) (isMark : Bool),
    pdStep cfg .rbMark n a iv isMark =
      (if roleOk cfg isMark true = true ∧ inBand cfg iv .bitMark = true then ⟨.noSymbol, 0, .rbSpace, n, a⟩
       else ⟨.errTiming, 0, .shIdle, 0, 0⟩)) ∧
  (∀ (cfg : Config) (n : BitVec 4) (a : BitVec 16) (iv : Timestamp) (isMark b : Bool),
    roleOk cfg isMark false = true →
    (b = false ∧ inBand cfg iv .zeroSpace = true ∨
      b = true ∧ inBand cfg iv .zeroSpace = false ∧ inBand cfg iv .oneSpace = true) →
      (n.toNat + 1 < 16 →
        pdStep cfg .rbSpace n a iv isMark =
          ⟨.noSymbol, 0, .rbMark, n + 1, a ||| ((if b = true then 1#16 else 0#16) <<< n.toNat)⟩) ∧
      (n.toNat = 15 →
        pdStep cfg .rbSpace n a iv isMark = complete (a ||| ((if b = true then 1#16 else 0#16) <<< 15)))) ∧
  (∀ (cfg : Config) (n : BitVec 4) (a : BitVec 16) (iv : Timestamp) (isMark : Bool),
    (roleOk cfg isMark false = false ∨ inBand cfg iv .zeroSpace = false ∧ inBand cfg iv .oneSpace = false) →
      pdStep cfg .rbSpace n a iv isMark = ⟨.errTiming, 0, .shIdle, 0, 0⟩) ∧
  (∀ (cfg : Config) (iv : Timestamp), cfg.wf = true →
    ¬ (inBand cfg iv .zeroSpace = true ∧ inBand cfg iv .oneSpace = true)) ∧
  (∀ (n : BitVec 4) (a : BitVec 16) (iv : Timestamp) (isMark : Bool),
    ((pdStep Config.reference .rbMark n a iv isMark).out = .errTiming ↔
      ¬ (isMark = true ∧ 422 ≤ iv.toNat ∧ iv.toNat ≤ 702)) ∧
    ((pdStep Config.reference .rbSpace n a iv isMark).out = .errTiming ↔
      ¬ (isMark = false ∧ (422 ≤ iv.toNat ∧ iv.toNat ≤ 702 ∨ 1266 ≤ iv.toNat ∧ iv.toNat ≤ 2108))))

/-- R106: the complement check, its corner cases, and that a single flipped bit always fails it. -/
def Obligations.CompletionChecksTheComplement : Prop :=
  (∀ a : BitVec 16,
    complete a =
      (if a.extractLsb' 8 8 = ~~~(a.extractLsb' 0 8) then ⟨.symbol, a.extractLsb' 0 8, .shIdle, 0, 0⟩
       else ⟨.errChecksum, a.extractLsb' 0 8, .shIdle, 0, 0⟩)) ∧
  complete 0xF30C = ⟨.symbol, 0x0C, .shIdle, 0, 0⟩ ∧ complete 0xF20C = ⟨.errChecksum, 0x0C, .shIdle, 0, 0⟩ ∧
  complete 0x00FF = ⟨.symbol, 0xFF, .shIdle, 0, 0⟩ ∧ complete 0xFF00 = ⟨.symbol, 0x00, .shIdle, 0, 0⟩ ∧
  (complete 0x0000).out = .errChecksum ∧ (complete 0xFFFF).out = .errChecksum ∧
  (∀ (a : BitVec 16) (i : Nat), i < 16 → (complete a).out = .symbol →
    (complete (a ^^^ (1#16 <<< i))).out = .errChecksum)

/-- R107: every outcome but NoSymbol leaves the decoder in its reset state, and the stop mark after a frame is a fresh interval
that gives ErrTiming and leaves `SH_IDLE`. -/
def Obligations.TerminalOutcomesFoldBack : Prop :=
  (∀ (cfg : Config) (d : DState) (n : BitVec 4) (a : BitVec 16) (iv : Timestamp) (isMark : Bool),
    (pdStep cfg d n a iv isMark).out ≠ .noSymbol →
      (pdStep cfg d n a iv isMark).dstate = .shIdle ∧ (pdStep cfg d n a iv isMark).bitcnt = 0 ∧
      (pdStep cfg d n a iv isMark).acc = 0) ∧
  (∀ (cfg : Config) (iv : Timestamp) (isMark : Bool),
    ¬ (roleOk cfg isMark true = true ∧ inBand cfg iv .hdrMark = true) →
      pdStep cfg .shIdle 0 0 iv isMark = ⟨.errTiming, 0, .shIdle, 0, 0⟩) ∧
  (∀ iv : Timestamp, inBand Config.reference iv .bitMark = true →
    pdStep Config.reference .shIdle 0 0 iv true = ⟨.errTiming, 0, .shIdle, 0, 0⟩)

/-- R111: `Symbol` is returned only where the 16 accumulated bits pass the complement check, the last of them the bit that the
space of this interval was classified as, and its code is their low byte. -/
def Obligations.FailedCheckNeverGivesSymbol : Prop :=
  ∀ (cfg : Config) (d : DState) (n : BitVec 4) (a : BitVec 16) (iv : Timestamp) (isMark : Bool),
    (pdStep cfg d n a iv isMark).out = .symbol →
      d = .rbSpace ∧ n = 15 ∧ roleOk cfg isMark false = true ∧
      ∃ (b : Bool) (acc2 : BitVec 16),
        (b = false ∧ inBand cfg iv .zeroSpace = true ∨
          b = true ∧ inBand cfg iv .zeroSpace = false ∧ inBand cfg iv .oneSpace = true) ∧
        acc2 = a ||| ((if b = true then 1#16 else 0#16) <<< 15) ∧
        acc2.extractLsb' 8 8 = ~~~(acc2.extractLsb' 0 8) ∧
        pdStep cfg d n a iv isMark = ⟨.symbol, acc2.extractLsb' 0 8, .shIdle, 0, 0⟩

/-- R110: from any position, an interval that fails the position's tests leaves the decoder as reset leaves it, so whatever
follows decodes as it would from reset. -/
def Obligations.ResynchronisesAfterAFailedInterval : Prop :=
  ∀ (cfg : Config) (d : DState) (n : BitVec 4) (a : BitVec 16) (iv : Timestamp) (isMark : Bool)
    (ivs : List (Bool × Timestamp)),
    (pdStep cfg d n a iv isMark).out = .errTiming →
      pdRun cfg d n a ((isMark, iv) :: ivs) = ⟨.errTiming, 0, .shIdle, 0, 0⟩ :: pdRun cfg .shIdle 0 0 ivs

/-- R112: a valid frame for any code gives NoSymbol on its first 33 intervals and Symbol with that code on the 34th; and from
`SH_IDLE`, a Symbol that only NoSymbol outcomes precede comes exactly on the 34th interval, after one `SH_IDLE` step, one
`SH_MARK` step, 16 `RB_MARK` steps and 16 `RB_SPACE` steps. -/
def Obligations.FrameGivesItsSymbolOnInterval34 : Prop :=
  (∀ (cfg : Config) (c : Code) (ivs : List Timestamp),
    cfg.wf = true → inBands cfg (frameSlots c (~~~c)) ivs →
      ivs.length = 34 ∧
      ∃ before : List PdResult,
        pdRun cfg .shIdle 0 0 (((frameSlots c (~~~c)).map Prod.fst).zip ivs) =
          before ++ [⟨.symbol, c, .shIdle, 0, 0⟩] ∧
        before.length = 33 ∧ ∀ r ∈ before, r.out = .noSymbol) ∧
  (∀ (cfg : Config) (ivs : List (Bool × Timestamp)) (before : List PdResult) (last : PdResult),
    pdRun cfg .shIdle 0 0 ivs = before ++ [last] → (∀ r ∈ before, r.out = .noSymbol) → last.out = .symbol →
      ivs.length = 34 ∧
      (before.map fun r => r.dstate) =
        [.shMark, .rbMark] ++ (List.replicate 15 [.rbSpace, .rbMark]).flatten ++ [.rbSpace])

/-- R271: with the reference bands and `POL_CHECK == 1`, while every real mark is labelled a space no frame decodes: from
`SH_IDLE`, if every interval labelled a space is as long as a real mark, no interval gives Symbol. -/
def Obligations.InvertedPolarityDecodesNothing : Prop :=
  ∀ (t : MapTable) (ivs : List (Bool × Timestamp)),
    (∀ p ∈ ivs, p.1 = false →
      inBand Config.reference p.2 .hdrMark = true ∨ inBand Config.reference p.2 .bitMark = true) →
      ∀ r ∈ pdRun { Config.reference with mapTable := t } .shIdle 0 0 ivs, r.out = .noSymbol ∧ r.dstate = .shMark ∨ r.out = .errTiming

/-- R272: with `POL_CHECK == 0` the polarity has no effect; an idle space in the header-mark band is taken for a header mark,
and the real header mark that follows it fails the `HDR_SPACE` test; the whole frame, any 34 intervals in the bands of its slots
under any labelling, is lost: each of them gives ErrTiming. The reference value is `POL_CHECK = 1`. -/
def Obligations.UncheckedPolarityTakesIdleForHeader : Prop :=
  (∀ (cfg : Config) (d : DState) (n : BitVec 4) (a : BitVec 16) (iv : Timestamp),
    cfg.polCheck = false → pdStep cfg d n a iv true = pdStep cfg d n a iv false) ∧
  (∀ (idle hdr : Timestamp),
    6750 ≤ idle.toNat → idle.toNat ≤ 11250 → 6750 ≤ hdr.toNat → hdr.toNat ≤ 11250 →
      pdRun { Config.reference with polCheck := false } .shIdle 0 0 [(false, idle), (true, hdr)] =
        [⟨.noSymbol, 0, .shMark, 0, 0⟩, ⟨.errTiming, 0, .shIdle, 0, 0⟩]) ∧
  (∀ (c k : Code) (idle : Timestamp) (isMark : Bool) (labels : List Bool) (ivs : List Timestamp),
    6750 ≤ idle.toNat → idle.toNat ≤ 11250 → inBands Config.reference (frameSlots c k) ivs → labels.length = 34 →
      pdRun { Config.reference with polCheck := false } .shIdle 0 0 ((isMark, idle) :: labels.zip ivs) =
        ⟨.noSymbol, 0, .shMark, 0, 0⟩ :: List.replicate 34 ⟨.errTiming, 0, .shIdle, 0, 0⟩) ∧
  Config.reference.polCheck = true

/-- R274: a frame cut off part-way is discarded by the idle gap before the next transmission: a space in no space band of the
position. -/
def Obligations.CutOffFrameIsDiscardedByTheGap : Prop :=
  ∀ (cfg : Config) (d : DState) (n : BitVec 4) (a : BitVec 16) (gap : Timestamp),
    cfg.polCheck = true → (d = .rbMark ∨ d = .rbSpace) →
    inBand cfg gap .zeroSpace = false → inBand cfg gap .oneSpace = false →
      pdStep cfg d n a gap false = ⟨.errTiming, 0, .shIdle, 0, 0⟩

/-! ## CommandMapper -/

/-- R144, with the ROM entry that MAP reads (R50): `MAP` gives exactly the pairs of the table, 12 codes give `Some` and 244 give
`None`. -/
def Obligations.MapIsTheCommandTable : Prop :=
  ∀ cfg : Config, cfg.wf = true →
    (∀ (c : Code) (sym : SymCode), mapCode cfg c = some sym ↔ (c, sym) ∈ cfg.mapTable.pairs) ∧
    (∀ (c : Code) (sym : SymCode), (c, sym) ∈ cfg.mapTable.pairs → romRead cfg c = 1#1 ++ sym) ∧
    (∀ c : Code, (∀ sym : SymCode, (c, sym) ∉ cfg.mapTable.pairs) → romRead cfg c = 0) ∧
    ((List.range 256).countP fun k => (mapCode cfg (BitVec.ofNat 8 k)).isSome) = 12 ∧
    ((List.range 256).countP fun k => (mapCode cfg (BitVec.ofNat 8 k)).isNone) = 244

/-- R140's example with R141(d): `MAP(0x0C) = Some(ONE)` in every well-formed `CONFIG`, and no other code gives `ONE`. -/
def Obligations.CodeTwelveIsOne : Prop :=
  ∀ cfg : Config, cfg.wf = true →
    mapCode cfg 0x0C = some 1 ∧ ∀ c : Code, mapCode cfg c = some 1 → c = 0x0C

/-! ## DebounceGate -/

/-- R161: what ACCEPT answers and writes, case by case, with the corner cases named there. -/
def Obligations.GateAcceptsByTheQuietWindow : Prop :=
  (∀ (now : Instant) (sym : SymCode) (s : State),
    (s.lastValid = false → accept now sym s = (.accepted, { s with lastAcc := now, lastValid := true })) ∧
    (s.lastValid = true → now.toNat < s.lastAcc.toNat → accept now sym s = (.timeRegression, s)) ∧
    (s.lastValid = true → s.lastAcc.toNat ≤ now.toNat → s.cfg.qw.toNat ≤ now.toNat - s.lastAcc.toNat →
      accept now sym s = (.accepted, { s with lastAcc := now })) ∧
    (s.lastValid = true → s.lastAcc.toNat ≤ now.toNat → now.toNat - s.lastAcc.toNat < s.cfg.qw.toNat →
      accept now sym s = (.debounced, s)) ∧
    (s.lastValid = true → s.cfg.qw ≠ 0 → accept s.lastAcc sym s = (.debounced, s)) ∧
    (s.lastValid = true → s.cfg.qw = 0 → s.lastAcc.toNat ≤ now.toNat →
      accept now sym s = (.accepted, { s with lastAcc := now }))) ∧
  (∀ (sym : SymCode) (s : State),
    s.cfg.qw = 300000 → s.lastValid = true → s.lastAcc = 1000000 →
      accept 1050000 sym s = (.debounced, s) ∧ accept 1350000 sym s = (.accepted, { s with lastAcc := 1350000 }))

/-- R163: the gate's result and its writes depend only on `now`, `LAST_ACC`, `LAST_VALID` and `QW`, never on the symbol. -/
def Obligations.GateIsSymbolAgnostic : Prop :=
  (∀ (now : Instant) (sym sym' : SymCode) (s s' : State),
    s.lastAcc = s'.lastAcc → s.lastValid = s'.lastValid → s.cfg.qw = s'.cfg.qw →
      (accept now sym s).1 = (accept now sym' s').1 ∧
      (accept now sym s).2.lastAcc = (accept now sym' s').2.lastAcc ∧
      (accept now sym s).2.lastValid = (accept now sym' s').2.lastValid) ∧
  (∀ (now : Instant) (sym : SymCode) (s : State),
    (accept now sym s).2 = { s with lastAcc := (accept now sym s).2.lastAcc, lastValid := (accept now sym s).2.lastValid })

/-- R166: of two consecutive calls the first of which accepts at `t0`, the second, at `t1 >= t0`, is rejected if
`t1 - t0 < QW` and accepted if `t1 - t0 >= QW`; if the first was rejected, the second is measured against the older `LAST_ACC`. -/
def Obligations.TwoConsecutiveGateCalls : Prop :=
  (∀ (t0 t1 : Instant) (sym sym' : SymCode) (s s1 : State),
    accept t0 sym s = (.accepted, s1) → t0.toNat ≤ t1.toNat →
      (t1.toNat - t0.toNat < s.cfg.qw.toNat → (accept t1 sym' s1).1 = .debounced) ∧
      (s.cfg.qw.toNat ≤ t1.toNat - t0.toNat → (accept t1 sym' s1).1 = .accepted)) ∧
  (∀ (t0 t1 : Instant) (sym sym' : SymCode) (s s1 : State),
    accept t0 sym s = (.debounced, s1) → t0.toNat ≤ t1.toNat →
      ((accept t1 sym' s1).1 = .accepted ↔ s.cfg.qw.toNat ≤ t1.toNat - s.lastAcc.toNat)) ∧
  Config.reference.qw = 300000

/-- R167, R233: two acceptances with no reset between them are at least `QW` apart: a step that moves a valid `LAST_ACC` and is
no RESET moves it by `QW` or more. -/
def Obligations.AcceptancesAreAQuietWindowApart : Prop :=
  ∀ s t : State, step s = .next t → s.lastValid = true → t.lastValid = true → t.lastAcc ≠ s.lastAcc →
    s.lastAcc.toNat + s.cfg.qw.toNat ≤ t.lastAcc.toNat

/-- R165, R27: `LAST_ACC` and `LAST_VALID` are written by an acceptance, and otherwise only by RESET. -/
def Obligations.GateRegistersMoveOnlyOnAcceptance : Prop :=
  ∀ s t : State, step s = .next t → ¬ (t.lastAcc = s.lastAcc ∧ t.lastValid = s.lastValid) →
    (∃ val, t.trace = s.trace ++ [⟨.accepted, val⟩]) ∨ t.trace = s.trace ++ [⟨.reset, 0⟩]

/-! ## EDGE -/

/-- R181: an EDGE that finds a symbol pending is lost: `edge_ready` is 0 and no register is written. -/
def Obligations.LostEdgeWritesNoRegister : Prop :=
  ∀ (ts : Timestamp) (now : Instant) (s : State), s.outValid = true →
    edgeReady s = false ∧ exec (.edge ts now) s = .next { s with trace := s.trace ++ [⟨.lost, 0⟩] }

/-- R183: the first EDGE after reset only primes; and with `POL_CHECK == 1` and the polarity of an idle line, a call of
PulseDecoder on any interval would have left the decoder as it is. -/
def Obligations.FirstEdgePrimes : Prop :=
  (∀ (ts : Timestamp) (now : Instant) (s : State), s.outValid = false → s.prevValid = false →
    exec (.edge ts now) s =
      .next { s with prevTs := ts, prevValid := true, pol := !s.pol, trace := s.trace ++ [⟨.primed, 0⟩] }) ∧
  (∀ (cfg : Config) (iv : Timestamp), cfg.polCheck = true → cfg.polInit = false →
    pdStep cfg .shIdle 0 0 iv cfg.polInit = ⟨.errTiming, 0, .shIdle, 0, 0⟩)

/-- R180, R185: a consumed edge whose outcome is no Symbol: the whole next state, outcome by outcome. -/
def Obligations.EdgeWithoutSymbolGoesOn : Prop :=
  ∀ (ts : Timestamp) (now : Instant) (s : State) (r : PdResult) (e : TraceEntry),
    s.outValid = false → s.prevValid = true →
    r = pdStep s.cfg s.dstate s.bitcnt s.acc (ts - s.prevTs) s.pol →
    (r.out = .noSymbol ∧ e = ⟨.noSym, 0⟩ ∨ r.out = .repeatCode ∧ e = ⟨.repeatCode, 0⟩ ∨
      r.out = .errTiming ∧ e = ⟨.errTiming, 0⟩ ∨ r.out = .errChecksum ∧ e = ⟨.errChecksum, r.code⟩) →
      exec (.edge ts now) s =
        .next { s with
          pol := !s.pol, prevTs := ts, dstate := r.dstate, bitcnt := r.bitcnt, acc := r.acc,
          trace := s.trace ++ [e] }

/-- R143: a decoded code that is in no pair of the table is dropped: the whole next state. -/
def Obligations.UnmappedCodeIsDropped : Prop :=
  ∀ (ts : Timestamp) (now : Instant) (s : State) (r : PdResult),
    s.outValid = false → s.prevValid = true →
    r = pdStep s.cfg s.dstate s.bitcnt s.acc (ts - s.prevTs) s.pol → r.out = .symbol →
    mapCode s.cfg r.code = none →
      exec (.edge ts now) s =
        .next { s with
          pol := !s.pol, prevTs := ts, dstate := .shIdle, bitcnt := 0, acc := 0,
          trace := s.trace ++ [⟨.unmapped, r.code⟩] }

/-- R187: a decoded and mapped symbol that the gate accepts waits in `OUT_SYM`: the whole next state. -/
def Obligations.AcceptedSymbolWaitsForTheSink : Prop :=
  ∀ (ts : Timestamp) (now : Instant) (s : State) (r : PdResult) (sym : SymCode),
    s.outValid = false → s.prevValid = true →
    r = pdStep s.cfg s.dstate s.bitcnt s.acc (ts - s.prevTs) s.pol → r.out = .symbol →
    mapCode s.cfg r.code = some sym →
    (s.lastValid = false ∨ s.lastAcc.toNat ≤ now.toNat ∧ s.cfg.qw.toNat ≤ now.toNat - s.lastAcc.toNat) →
      ∃ t, exec (.edge ts now) s = .next t ∧
        t = { s with
          pol := !s.pol, prevTs := ts, dstate := .shIdle, bitcnt := 0, acc := 0,
          lastAcc := now, lastValid := true, outValid := true, outSym := sym,
          trace := s.trace ++ [⟨.accepted, sym.setWidth 8⟩] } ∧
        ∀ ts' now', exec (.edge ts' now') t = .next { t with trace := t.trace ++ [⟨.lost, 0⟩] }

/-- R162: a decoded and mapped symbol inside the quiet window is dropped, whichever symbol it is: the whole next state. -/
def Obligations.DebouncedSymbolIsDropped : Prop :=
  ∀ (ts : Timestamp) (now : Instant) (s : State) (r : PdResult) (sym : SymCode),
    s.outValid = false → s.prevValid = true →
    r = pdStep s.cfg s.dstate s.bitcnt s.acc (ts - s.prevTs) s.pol → r.out = .symbol →
    mapCode s.cfg r.code = some sym →
    s.lastValid = true → s.lastAcc.toNat ≤ now.toNat → now.toNat - s.lastAcc.toNat < s.cfg.qw.toNat →
      exec (.edge ts now) s =
        .next { s with
          pol := !s.pol, prevTs := ts, dstate := .shIdle, bitcnt := 0, acc := 0,
          trace := s.trace ++ [⟨.debounced, sym.setWidth 8⟩] }

/-- R164: a mapped symbol at a `now` below `LAST_ACC` is the model fault TIME_REGRESSION: the gate writes no register, the
EDGE's other writes stand, the trace records FAULT, and the machine is stuck. (That the fault is recorded in a next state and
answered by the step after it is the model's reading: log entry 5.) -/
def Obligations.TimeRegressionIsAModelFault : Prop :=
  ∀ (ts : Timestamp) (now : Instant) (s t : State) (r : PdResult) (sym : SymCode),
    s.Running → s.outValid = false → s.prevValid = true →
    r = pdStep s.cfg s.dstate s.bitcnt s.acc (ts - s.prevTs) s.pol → r.out = .symbol →
    mapCode s.cfg r.code = some sym → s.lastValid = true → now.toNat < s.lastAcc.toNat →
    t = { s with
      pol := !s.pol, prevTs := ts, dstate := .shIdle, bitcnt := 0, acc := 0, fault := 0b01,
      trace := s.trace ++ [⟨.fault, 1⟩] } →
      exec (.edge ts now) s = .next t ∧ step t = .fault .timeRegression

/-- R184: every consumed edge passes the current `POL` to PulseDecoder and inverts it, whatever the outcome; a lost edge does
not. -/
def Obligations.PolarityTogglesOnConsumedEdges : Prop :=
  ∀ (ts : Timestamp) (now : Instant) (s t : State), exec (.edge ts now) s = .next t →
    (s.outValid = false → t.pol = !s.pol) ∧
    (s.outValid = true → t.pol = s.pol) ∧
    (s.outValid = false → s.prevValid = true →
      t.dstate = (pdStep s.cfg s.dstate s.bitcnt s.acc (ts - s.prevTs) s.pol).dstate)

/-- R185: every consumed edge after the first writes back what PD_STEP returns, and nothing else but RESET writes `DSTATE`,
`BITCNT` or `ACC`. -/
def Obligations.DecoderRegistersFollowPdStep : Prop :=
  (∀ (ts : Timestamp) (now : Instant) (s t : State), exec (.edge ts now) s = .next t →
    (s.outValid = false → s.prevValid = true →
      t.dstate = (pdStep s.cfg s.dstate s.bitcnt s.acc (ts - s.prevTs) s.pol).dstate ∧
      t.bitcnt = (pdStep s.cfg s.dstate s.bitcnt s.acc (ts - s.prevTs) s.pol).bitcnt ∧
      t.acc = (pdStep s.cfg s.dstate s.bitcnt s.acc (ts - s.prevTs) s.pol).acc) ∧
    (s.outValid = true ∨ s.prevValid = false → t.dstate = s.dstate ∧ t.bitcnt = s.bitcnt ∧ t.acc = s.acc)) ∧
  (∀ (i : Instr) (s t : State), exec i s = .next t → i = .nop ∨ i = .deliver →
    t.dstate = s.dstate ∧ t.bitcnt = s.bitcnt ∧ t.acc = s.acc)

/-- The frame of EDGE: `CONFIG`, `DELIVERED` and the stream never change; `LAST_ACC`, `LAST_VALID`, `OUT_VALID` and `OUT_SYM`
change only on an acceptance, `FAULT` only on a time regression, `PREV_VALID` only from 0 to 1 (10_state.md R33,
43_decoder_loop.md R180). -/
def Obligations.EdgeFrame : Prop :=
  ∀ (ts : Timestamp) (now : Instant) (s t : State), exec (.edge ts now) s = .next t →
    t.cfg = s.cfg ∧ t.delivered = s.delivered ∧ t.input = s.input ∧
    (t.prevValid = s.prevValid ∨ s.prevValid = false ∧ t.prevValid = true) ∧
    ((∃ val, t.trace = s.trace ++ [⟨.accepted, val⟩]) ∨
      t.lastAcc = s.lastAcc ∧ t.lastValid = s.lastValid ∧ t.outValid = s.outValid ∧ t.outSym = s.outSym) ∧
    (t.trace = s.trace ++ [⟨.fault, 1⟩] ∨ t.fault = s.fault) ∧
    (t.trace = s.trace ++ [⟨.lost, 0⟩] → t.regs = s.regs)

/-- R227: which outcome one EDGE reports when several could apply: LOST before PRIMED, PRIMED before any decoding, the polarity
and band tests before the check, UNMAPPED before the gate, the time regression before DEBOUNCED. -/
def Obligations.OutcomePriorityOfOneEdge : Prop :=
  ∀ (ts : Timestamp) (now : Instant) (s t : State) (e : TraceEntry),
    exec (.edge ts now) s = .next t → t.trace = s.trace ++ [e] →
    (s.outValid = true → e.disp = .lost) ∧
    (s.outValid = false → s.prevValid = false → e.disp = .primed) ∧
    (s.outValid = false → s.prevValid = true → s.dstate = .rbSpace →
      inBand s.cfg (ts - s.prevTs) .zeroSpace = false → inBand s.cfg (ts - s.prevTs) .oneSpace = false →
        e.disp = .errTiming) ∧
    (s.outValid = false → s.prevValid = true →
      (pdStep s.cfg s.dstate s.bitcnt s.acc (ts - s.prevTs) s.pol).out = .symbol →
        (mapCode s.cfg (pdStep s.cfg s.dstate s.bitcnt s.acc (ts - s.prevTs) s.pol).code = none → e.disp = .unmapped) ∧
        (mapCode s.cfg (pdStep s.cfg s.dstate s.bitcnt s.acc (ts - s.prevTs) s.pol).code ≠ none →
          s.lastValid = true → now.toNat < s.lastAcc.toNat → e.disp = .fault))

/-- R109, R182: adding a constant to every timestamp changes nothing but `PREV_TS`: the shifted EDGEs give the shifted next
state, for every outcome and across the wrap. Before the first edge after reset the old `PREV_TS` may be anything. -/
def Obligations.ShiftedTimestampsDecodeAlike : Prop :=
  ∀ (c prev : Timestamp) (edges : List (Timestamp × Instant)) (s : State) (rest : List TxWord) (n : Nat) (t : State),
    s.Running →
    s.input = (edges.map fun e => encode (.edge e.1 e.2)) ++ rest →
    (prev = s.prevTs + c ∨ s.prevValid = false ∧ s.outValid = false ∧ 0 < n) →
    n ≤ edges.length → run n s = .next t →
      run n { s with prevTs := prev, input := (edges.map fun e => encode (.edge (e.1 + c) e.2)) ++ rest } =
        .next { t with
          prevTs := t.prevTs + c, input := ((edges.drop n).map fun e => encode (.edge (e.1 + c) e.2)) ++ rest }

/-- R236, R270: while EventSink never takes the symbol, every edge is lost and no register changes, however many come. -/
def Obligations.UnreadySinkLosesEveryEdge : Prop :=
  ∀ (edges : List (Timestamp × Instant)) (s : State) (rest : List TxWord),
    s.Running → s.outValid = true → s.input = (edges.map fun e => encode (.edge e.1 e.2)) ++ rest →
      run edges.length s =
        .next { s with input := rest, trace := s.trace ++ List.replicate edges.length ⟨.lost, 0⟩ }

/-! ## DELIVER, NOP, RESET -/

/-- R188: DELIVER hands over the pending symbol once, and with nothing pending writes nothing: the whole next state. -/
def Obligations.DeliverHandsOverThePendingSymbol : Prop :=
  (∀ s : State, s.outValid = true →
    exec .deliver s =
      .next { s with
        outValid := false, delivered := s.delivered ++ [s.outSym],
        trace := s.trace ++ [⟨.delivered, s.outSym.setWidth 8⟩] }) ∧
  (∀ s : State, s.outValid = false → exec .deliver s = .next { s with trace := s.trace ++ [⟨.idle, 0⟩] }) ∧
  (∀ s t u : State, s.outValid = true → exec .deliver s = .next t → exec .deliver t = .next u →
    u.delivered = s.delivered ++ [s.outSym])

/-- R190, R192: a step changes `DELIVERED` only by a DELIVER that hands over the pending symbol. -/
def Obligations.OnlyDeliverHandsOverSymbols : Prop :=
  ∀ s t : State, step s = .next t → t.delivered ≠ s.delivered →
    ∃ rest, s.input = encode .deliver :: rest ∧ s.outValid = true ∧ t.outValid = false ∧
      t.delivered = s.delivered ++ [s.outSym]

/-- R189: NOP writes no register, and any number of NOPs in a row leaves the registers as they were. -/
def Obligations.NopsLeaveTheRegistersUnchanged : Prop :=
  (∀ s : State, exec .nop s = .next { s with trace := s.trace ++ [⟨.idle, 0⟩] }) ∧
  (∀ (n : Nat) (s : State) (rest : List TxWord),
    s.Running → s.input = List.replicate n (encode .nop) ++ rest →
      run n s =
        .next { s with input := rest, trace := s.trace ++ List.replicate n ⟨.idle, 0⟩ })

/-- R260: RESET puts every register at its reset value, drops a pending symbol, and leaves `CONFIG`, `FAULT`, the entries of
`TRACE` and `DELIVERED`: the whole next state; and RESET after RESET is the same as one. -/
def Obligations.ResetIsConstruction : Prop :=
  (∀ s : State,
    exec .reset s =
      .next { s with
        dstate := .shIdle, bitcnt := 0, acc := 0x0000, prevTs := 0, prevValid := false, pol := s.cfg.polInit,
        lastAcc := 0, lastValid := false, outValid := false, outSym := 0,
        trace := s.trace ++ [⟨.reset, 0⟩] }) ∧
  (∀ s t u : State, exec .reset s = .next t → exec .reset t = .next u → u.regs = t.regs)

/-- R261, R262: the registers after RESET and in the reset state, with `POL` at `POL_INIT`, which is 0 for this hardware; the
edge channel is ready. -/
def Obligations.RegistersAfterReset : Prop :=
  (∀ s t : State, exec .reset s = .next t →
    t.regs = ⟨.shIdle, 0, 0, 0, false, s.cfg.polInit, 0, false, false, 0⟩ ∧ edgeReady t = true) ∧
  State.reset.regs = ⟨.shIdle, 0, 0, 0, false, false, 0, false, false, 0⟩ ∧
  Config.reference.polInit = false ∧ State.reset.cfg = Config.reference ∧ edgeReady State.reset = true ∧
  dstateCode .shIdle = 0

/-- R263: a run starts with `FAULT` 0 and `TRACE` and `DELIVERED` empty, under any `CONFIG`. -/
def Obligations.RunsStartEmpty : Prop :=
  ∀ cfg : Config, (State.construct cfg).cfg = cfg ∧ (State.construct cfg).fault = 0 ∧
    (State.construct cfg).trace = [] ∧ (State.construct cfg).delivered = [] ∧
    ∀ s t : State, s.cfg = cfg → exec .reset s = .next t → t.regs = (State.construct cfg).regs

/-! ## Invariants and whole runs -/

/-- The invariants of R36 hold at reset. -/
def Obligations.RegisterInvariantsAtReset : Prop := State.reset.RegistersOk

/-- R36: every reset state meets the invariants (a) to (d), and every transaction keeps them true. -/
def Obligations.StepKeepsRegisterInvariants : Prop :=
  (∀ cfg : Config, (State.construct cfg).RegistersOk) ∧
  (∀ s t : State, s.RegistersOk → step s = .next t → t.RegistersOk)

/-- R74, R79(c): no reserved symbol code is ever delivered. -/
def Obligations.ReservedSymbolsAreNeverDelivered : Prop :=
  ∀ s t : State, s.RegistersOk → (∀ sym ∈ s.delivered, sym.toNat ≤ 11) → step s = .next t →
    ∀ sym ∈ t.delivered, sym.toNat ≤ 11

/-- `DELIVERED` and the pending symbol are what the trace says, at reset. -/
def Obligations.DeliveriesMatchTraceAtReset : Prop := State.reset.DeliveriesMatchTrace

/-- R192 with RESET taken into account (log entry 13): `DELIVERED` is the sequence of ACCEPTED symbols in order, less one still
pending and those a RESET dropped. Every step keeps it. -/
def Obligations.StepKeepsDeliveriesMatchTrace : Prop :=
  ∀ s t : State, s.DeliveriesMatchTrace → step s = .next t → t.DeliveriesMatchTrace

/-- R230, R266: stimulus of legal words whose `now` never decreases raises no fault: such a machine always takes its next step,
and the rest of the stimulus keeps the contract. -/
def Obligations.ContractStimulusNeverFaults : Prop :=
  ∀ s : State, s.WithinContract → ∃ t, step s = .next t ∧ t.WithinContract

/-- The end-to-end property (43_decoder_loop.md R180, R187, R188; 40_pulse_decoder.md R112): from an idle decoder with the
polarity in step (or unchecked), the 34 EDGEs of a valid frame whose code maps to `sym`, outside the quiet window, then a DELIVER,
hand `sym` to EventSink exactly once; `TRACE` shows 33 NOSYM, one ACCEPTED, one DELIVERED. -/
def Obligations.KeyPressDeliversItsSymbol : Prop :=
  ∀ (s : State) (c : Code) (sym : SymCode) (ivs : List Timestamp) (nows : List Instant) (last : Instant)
    (rest : List TxWord),
    s.Running → s.DecoderIdle → s.prevValid = true → s.outValid = false →
    (s.pol = true ∨ s.cfg.polCheck = false) →
    inBands s.cfg (frameSlots c (~~~c)) ivs → (c, sym) ∈ s.cfg.mapTable.pairs →
    nows.length = 33 →
    (s.lastValid = false ∨ s.lastAcc.toNat ≤ last.toNat ∧ s.cfg.qw.toNat ≤ last.toNat - s.lastAcc.toNat) →
    s.input = (edgesFrom s.prevTs (ivs.zip (nows ++ [last]))).map encode ++ encode .deliver :: rest →
      run 35 s =
        .next { s with
          prevTs := s.prevTs + ivs.sum, lastAcc := last, lastValid := true, outSym := sym,
          delivered := s.delivered ++ [sym],
          trace := s.trace ++ List.replicate 33 ⟨.noSym, 0⟩ ++
            [⟨.accepted, sym.setWidth 8⟩, ⟨.delivered, sym.setWidth 8⟩],
          input := rest }

/-! ## Ports and the assembler -/

/-- The output ports (R71) and one cycle's simultaneous requests as transactions (R228), the stream being empty: `rst` alone
wins; else a DELIVER of the pending symbol goes before the edge, so that the edge is consumed and not lost. MODEL'S READING, log
entry 10: in the last clause, where `sym_ready` is 1 with nothing pending, the cycle is the EDGE alone; R71 by itself would make
such a cycle a DELIVER too. -/
def Obligations.PortCyclesAreSerialised : Prop :=
  ∀ (p : PortInputs) (s : State), s.Running → s.input = [] →
    (portOutputs s = ⟨!s.outValid, s.outValid, s.outSym⟩) ∧
    (p.rst = true → run 1 (s.portCycle p) = exec .reset s) ∧
    (p.rst = false → p.symReady = true → s.outValid = true → p.edgeValid = true →
      ∃ t, run 2 (s.portCycle p) = .next t ∧ t.input = [] ∧
        t.delivered = s.delivered ++ [s.outSym] ∧ t.prevTs = p.edgeTs ∧ t.pol = !s.pol) ∧
    (p.rst = false → p.symReady = true → s.outValid = true → p.edgeValid = false →
      run 1 (s.portCycle p) = exec .deliver s) ∧
    (p.rst = false → (p.symReady = false ∨ s.outValid = false) → p.edgeValid = true →
      run 1 (s.portCycle p) = exec (.edge p.edgeTs p.now) s)

/-- R83: NEC16 c, after an edge that ended a space, is 34 EDGEs with the nominal intervals of the frame of `c` and its
complement, from the running time on; each `now` and the running time after it are what the MARKs and SPACEs before add up to, and
the last edge ended a space. (A running `n` that leaves 64 bits is rejected: log entry 11.) -/
def Obligations.AssembledFrameIsTheOnAirFrame : Prop :=
  ∀ (c : Code) (t : Timestamp) (n : Instant) (ivs : List Timestamp) (nows : List Instant),
    n.toNat + 40484 < 2 ^ 64 →
    ivs = ((frameSlots c (~~~c)).map fun slot => Config.reference.nominal slot.2) →
    nows = ((List.range 34).map fun k => n + BitVec.ofNat 64 (((ivs.take (k + 1)).map BitVec.toNat).sum)) →
      asmLine (.nec16 c.toNat) ⟨some (t, n), true⟩ =
        .ok (⟨some (t + 40484, n + 40484), true⟩, edgesFrom t (ivs.zip nows)) ∧
      ivs.length = 34 ∧ (edgesFrom t (ivs.zip nows)).length = 34 ∧ inBands Config.reference (frameSlots c (~~~c)) ivs

/-- R82: the assembler takes an EDGE whose operands fit and rejects one whose `ts` or `now` does not. -/
def Obligations.AssemblerRejectsWideOperands : Prop :=
  ∀ (ts now : Nat) (st : AsmState),
    (ts < 2 ^ 32 ∧ now < 2 ^ 64 →
      ∃ st', asmLine (.edge ts now) st = .ok (st', [.edge (BitVec.ofNat 32 ts) (BitVec.ofNat 64 now)])) ∧
    (¬ (ts < 2 ^ 32 ∧ now < 2 ^ 64) → asmLine (.edge ts now) st = .error .operandTooWide)
end

