-- ==== Sys2Proof/Laws/Config.lean ====
section
/-! SUPPORT. What a well-formed `CONFIG` gives: the table of any well-formed configuration meets R141, the OPEN one included. -/

namespace Sys2Proof

theorem fillerMapTable_wf : Machine.pairsWf (Machine.fixedPair :: Config.fillerMapTail) = true := by decide

/-- The OPEN table meets 41_command_mapper.md R141, whatever the free pairs are. -/
theorem openMapTable_wf : Machine.pairsWf Config.openMapTable = true := by
  unfold Config.openMapTable
  split
  · assumption
  · exact fillerMapTable_wf

theorem mapTable_pairs_wf {t : MapTable} (h : t.wf = true) : Machine.pairsWf t.pairs = true := by
  cases t with
  | unnamed => exact openMapTable_wf
  | named pairs => exact h

theorem config_wf_iff {cfg : Config} : cfg.wf = true ↔
    cfg.fieldsInRange = true ∧ cfg.bandsDisjoint .hdrSpace .rptSpace = true ∧
      cfg.bandsDisjoint .zeroSpace .oneSpace = true ∧ cfg.mapTable.wf = true := by
  simp [Config.wf, and_assoc]

theorem config_pairs_wf {cfg : Config} (h : cfg.wf = true) : Machine.pairsWf cfg.mapTable.pairs = true :=
  mapTable_pairs_wf (config_wf_iff.1 h).2.2.2

/-- 10_state.md R31: a nominal duration is 1 or more and the tolerance 99 or less. -/
theorem config_nominal_pos {cfg : Config} (h : cfg.wf = true) (n : Nominal) : 1 ≤ (cfg.nominal n).toNat := by
  have hr := (config_wf_iff.1 h).1
  simp only [Config.fieldsInRange, Bool.and_eq_true, bne_iff_ne, ne_eq, decide_eq_true_eq] at hr
  have key : ∀ x : BitVec 32, ¬ x = 0 → 1 ≤ x.toNat := by
    intro x hx
    rcases Nat.eq_zero_or_pos x.toNat with h0 | h0
    · exact absurd (BitVec.eq_of_toNat_eq h0) hx
    · exact h0
  obtain ⟨⟨⟨⟨⟨⟨h1, h2⟩, h3⟩, h4⟩, h5⟩, h6⟩, -⟩ := hr
  cases n <;> exact key _ ‹_›

theorem config_tol_le {cfg : Config} (h : cfg.wf = true) : cfg.tolPct.toNat ≤ 99 := by
  have hr := (config_wf_iff.1 h).1
  simp only [Config.fieldsInRange, Bool.and_eq_true, decide_eq_true_eq] at hr
  exact hr.2

namespace Machine

theorem pairsWf_iff {pairs : List MapPair} : pairsWf pairs = true ↔
    pairs.length = 12 ∧ (pairs.map Prod.fst).Nodup ∧
      (∀ sym ∈ allSymbols, pairs.countP (fun p => p.2 == symbolCode sym) = 1) ∧ fixedPair ∈ pairs := by
  simp [pairsWf, hasTwelvePairs, codesDistinct, symbolsOnceEach, hasFixedPair, and_assoc, List.Nodup]

/-- A pair list counted symbol by symbol: pairs with one of the twelve codes. -/
theorem countP_symbols (pairs : List MapPair) :
    (allSymbols.map fun sym => pairs.countP fun p => p.2 == symbolCode sym).sum =
      pairs.countP fun p => decide (p.2.toNat ≤ 11) := by
  induction pairs with
  | nil => decide
  | cons p rest ih =>
    obtain ⟨c, sym⟩ := p
    have key : ∀ sym : SymCode,
        (allSymbols.map fun x => if sym == symbolCode x then 1 else 0).sum = if decide (sym.toNat ≤ 11) = true then 1 else 0 := by
      decide
    simp only [List.countP_cons]
    rw [List.sum_map_add, ih, key]

/-- No pair of a well-formed table holds a reserved symbol code (41_command_mapper.md R141(c)). -/
theorem pairsWf_sym_le {pairs : List MapPair} (h : pairsWf pairs = true) : ∀ p ∈ pairs, p.2.toNat ≤ 11 := by
  obtain ⟨hlen, -, hone, -⟩ := pairsWf_iff.1 h
  have h12 : (allSymbols.map fun sym => pairs.countP fun p => p.2 == symbolCode sym).sum = 12 := by
    rw [List.map_congr_left hone]; decide
  rw [countP_symbols, ← hlen, List.countP_eq_length] at h12
  exact fun p hp => by simpa using h12 p hp

end Machine
end Sys2Proof
end

