-- ==== Sys2Proof/Laws/CommandMapper.lean ====
section
/-! SUPPORT. MAP reads the pair of its code, if the table has one. -/

namespace Sys2Proof.Machine

theorem mapCode_eq_find (cfg : Config) (c : Code) :
    mapCode cfg c = (cfg.mapTable.pairs.find? fun p => p.1 == c).map Prod.snd := by
  unfold mapCode romRead
  cases h : cfg.mapTable.pairs.find? fun p => p.1 == c with
  | none => simp
  | some p =>
    have : ∀ sym : SymCode, (1#1 ++ sym).getLsbD 4 = true ∧ (1#1 ++ sym).extractLsb' 0 4 = sym := by decide
    simp [this p.2]

/-- A symbol that MAP gives stands in a pair of the table. -/
theorem mapCode_mem {cfg : Config} {c : Code} {sym : SymCode} (h : mapCode cfg c = some sym) :
    (c, sym) ∈ cfg.mapTable.pairs := by
  rw [mapCode_eq_find] at h
  obtain ⟨p, hp, rfl⟩ := Option.map_eq_some_iff.1 h
  have h1 := List.find?_some hp
  have h2 := List.mem_of_find?_eq_some hp
  simp only [beq_iff_eq] at h1
  exact h1 ▸ h2

/-- A symbol that MAP gives is not a reserved code (10_state.md R36(d)). -/
theorem mapCode_sym_le {cfg : Config} (hc : cfg.wf = true) {c : Code} {sym : SymCode} (h : mapCode cfg c = some sym) :
    sym.toNat ≤ 11 :=
  pairsWf_sym_le (config_pairs_wf hc) _ (mapCode_mem h)

end Sys2Proof.Machine
end

