-- ==== Sys2Proof/Laws/State.lean ====
section
/-! SUPPORT. One lemma for each field of State under each named update, so that no proof unfolds a record update. -/

namespace Sys2Proof.Machine

variable (s : State)

@[simp] theorem togglePol_dstate : s.togglePol.dstate = s.dstate := rfl
@[simp] theorem togglePol_bitcnt : s.togglePol.bitcnt = s.bitcnt := rfl
@[simp] theorem togglePol_acc : s.togglePol.acc = s.acc := rfl
@[simp] theorem togglePol_prevTs : s.togglePol.prevTs = s.prevTs := rfl
@[simp] theorem togglePol_prevValid : s.togglePol.prevValid = s.prevValid := rfl
@[simp] theorem togglePol_pol : s.togglePol.pol = !s.pol := rfl
@[simp] theorem togglePol_lastAcc : s.togglePol.lastAcc = s.lastAcc := rfl
@[simp] theorem togglePol_lastValid : s.togglePol.lastValid = s.lastValid := rfl
@[simp] theorem togglePol_outValid : s.togglePol.outValid = s.outValid := rfl
@[simp] theorem togglePol_outSym : s.togglePol.outSym = s.outSym := rfl
@[simp] theorem togglePol_cfg : s.togglePol.cfg = s.cfg := rfl
@[simp] theorem togglePol_fault : s.togglePol.fault = s.fault := rfl
@[simp] theorem togglePol_trace : s.togglePol.trace = s.trace := rfl
@[simp] theorem togglePol_delivered : s.togglePol.delivered = s.delivered := rfl
@[simp] theorem togglePol_input : s.togglePol.input = s.input := rfl

@[simp] theorem setPrevValid_dstate : s.setPrevValid.dstate = s.dstate := rfl
@[simp] theorem setPrevValid_bitcnt : s.setPrevValid.bitcnt = s.bitcnt := rfl
@[simp] theorem setPrevValid_acc : s.setPrevValid.acc = s.acc := rfl
@[simp] theorem setPrevValid_prevTs : s.setPrevValid.prevTs = s.prevTs := rfl
@[simp] theorem setPrevValid_prevValid : s.setPrevValid.prevValid = true := rfl
@[simp] theorem setPrevValid_pol : s.setPrevValid.pol = s.pol := rfl
@[simp] theorem setPrevValid_lastAcc : s.setPrevValid.lastAcc = s.lastAcc := rfl
@[simp] theorem setPrevValid_lastValid : s.setPrevValid.lastValid = s.lastValid := rfl
@[simp] theorem setPrevValid_outValid : s.setPrevValid.outValid = s.outValid := rfl
@[simp] theorem setPrevValid_outSym : s.setPrevValid.outSym = s.outSym := rfl
@[simp] theorem setPrevValid_cfg : s.setPrevValid.cfg = s.cfg := rfl
@[simp] theorem setPrevValid_fault : s.setPrevValid.fault = s.fault := rfl
@[simp] theorem setPrevValid_trace : s.setPrevValid.trace = s.trace := rfl
@[simp] theorem setPrevValid_delivered : s.setPrevValid.delivered = s.delivered := rfl
@[simp] theorem setPrevValid_input : s.setPrevValid.input = s.input := rfl

@[simp] theorem setLastValid_dstate : s.setLastValid.dstate = s.dstate := rfl
@[simp] theorem setLastValid_bitcnt : s.setLastValid.bitcnt = s.bitcnt := rfl
@[simp] theorem setLastValid_acc : s.setLastValid.acc = s.acc := rfl
@[simp] theorem setLastValid_prevTs : s.setLastValid.prevTs = s.prevTs := rfl
@[simp] theorem setLastValid_prevValid : s.setLastValid.prevValid = s.prevValid := rfl
@[simp] theorem setLastValid_pol : s.setLastValid.pol = s.pol := rfl
@[simp] theorem setLastValid_lastAcc : s.setLastValid.lastAcc = s.lastAcc := rfl
@[simp] theorem setLastValid_lastValid : s.setLastValid.lastValid = true := rfl
@[simp] theorem setLastValid_outValid : s.setLastValid.outValid = s.outValid := rfl
@[simp] theorem setLastValid_outSym : s.setLastValid.outSym = s.outSym := rfl
@[simp] theorem setLastValid_cfg : s.setLastValid.cfg = s.cfg := rfl
@[simp] theorem setLastValid_fault : s.setLastValid.fault = s.fault := rfl
@[simp] theorem setLastValid_trace : s.setLastValid.trace = s.trace := rfl
@[simp] theorem setLastValid_delivered : s.setLastValid.delivered = s.delivered := rfl
@[simp] theorem setLastValid_input : s.setLastValid.input = s.input := rfl

@[simp] theorem setOutValid_dstate : s.setOutValid.dstate = s.dstate := rfl
@[simp] theorem setOutValid_bitcnt : s.setOutValid.bitcnt = s.bitcnt := rfl
@[simp] theorem setOutValid_acc : s.setOutValid.acc = s.acc := rfl
@[simp] theorem setOutValid_prevTs : s.setOutValid.prevTs = s.prevTs := rfl
@[simp] theorem setOutValid_prevValid : s.setOutValid.prevValid = s.prevValid := rfl
@[simp] theorem setOutValid_pol : s.setOutValid.pol = s.pol := rfl
@[simp] theorem setOutValid_lastAcc : s.setOutValid.lastAcc = s.lastAcc := rfl
@[simp] theorem setOutValid_lastValid : s.setOutValid.lastValid = s.lastValid := rfl
@[simp] theorem setOutValid_outValid : s.setOutValid.outValid = true := rfl
@[simp] theorem setOutValid_outSym : s.setOutValid.outSym = s.outSym := rfl
@[simp] theorem setOutValid_cfg : s.setOutValid.cfg = s.cfg := rfl
@[simp] theorem setOutValid_fault : s.setOutValid.fault = s.fault := rfl
@[simp] theorem setOutValid_trace : s.setOutValid.trace = s.trace := rfl
@[simp] theorem setOutValid_delivered : s.setOutValid.delivered = s.delivered := rfl
@[simp] theorem setOutValid_input : s.setOutValid.input = s.input := rfl

@[simp] theorem clearOutValid_dstate : s.clearOutValid.dstate = s.dstate := rfl
@[simp] theorem clearOutValid_bitcnt : s.clearOutValid.bitcnt = s.bitcnt := rfl
@[simp] theorem clearOutValid_acc : s.clearOutValid.acc = s.acc := rfl
@[simp] theorem clearOutValid_prevTs : s.clearOutValid.prevTs = s.prevTs := rfl
@[simp] theorem clearOutValid_prevValid : s.clearOutValid.prevValid = s.prevValid := rfl
@[simp] theorem clearOutValid_pol : s.clearOutValid.pol = s.pol := rfl
@[simp] theorem clearOutValid_lastAcc : s.clearOutValid.lastAcc = s.lastAcc := rfl
@[simp] theorem clearOutValid_lastValid : s.clearOutValid.lastValid = s.lastValid := rfl
@[simp] theorem clearOutValid_outValid : s.clearOutValid.outValid = false := rfl
@[simp] theorem clearOutValid_outSym : s.clearOutValid.outSym = s.outSym := rfl
@[simp] theorem clearOutValid_cfg : s.clearOutValid.cfg = s.cfg := rfl
@[simp] theorem clearOutValid_fault : s.clearOutValid.fault = s.fault := rfl
@[simp] theorem clearOutValid_trace : s.clearOutValid.trace = s.trace := rfl
@[simp] theorem clearOutValid_delivered : s.clearOutValid.delivered = s.delivered := rfl
@[simp] theorem clearOutValid_input : s.clearOutValid.input = s.input := rfl

@[simp] theorem record_dstate (d : Disposition) (v : BitVec 8) : (s.record d v).dstate = s.dstate := rfl
@[simp] theorem record_bitcnt (d : Disposition) (v : BitVec 8) : (s.record d v).bitcnt = s.bitcnt := rfl
@[simp] theorem record_acc (d : Disposition) (v : BitVec 8) : (s.record d v).acc = s.acc := rfl
@[simp] theorem record_prevTs (d : Disposition) (v : BitVec 8) : (s.record d v).prevTs = s.prevTs := rfl
@[simp] theorem record_prevValid (d : Disposition) (v : BitVec 8) : (s.record d v).prevValid = s.prevValid := rfl
@[simp] theorem record_pol (d : Disposition) (v : BitVec 8) : (s.record d v).pol = s.pol := rfl
@[simp] theorem record_lastAcc (d : Disposition) (v : BitVec 8) : (s.record d v).lastAcc = s.lastAcc := rfl
@[simp] theorem record_lastValid (d : Disposition) (v : BitVec 8) : (s.record d v).lastValid = s.lastValid := rfl
@[simp] theorem record_outValid (d : Disposition) (v : BitVec 8) : (s.record d v).outValid = s.outValid := rfl
@[simp] theorem record_outSym (d : Disposition) (v : BitVec 8) : (s.record d v).outSym = s.outSym := rfl
@[simp] theorem record_cfg (d : Disposition) (v : BitVec 8) : (s.record d v).cfg = s.cfg := rfl
@[simp] theorem record_fault (d : Disposition) (v : BitVec 8) : (s.record d v).fault = s.fault := rfl
@[simp] theorem record_trace (d : Disposition) (v : BitVec 8) : (s.record d v).trace = s.trace ++ [⟨d, v⟩] := rfl
@[simp] theorem record_delivered (d : Disposition) (v : BitVec 8) : (s.record d v).delivered = s.delivered := rfl
@[simp] theorem record_input (d : Disposition) (v : BitVec 8) : (s.record d v).input = s.input := rfl

@[simp] theorem setPrevTs_dstate (ts : Timestamp) : (s.setPrevTs ts).dstate = s.dstate := rfl
@[simp] theorem setPrevTs_bitcnt (ts : Timestamp) : (s.setPrevTs ts).bitcnt = s.bitcnt := rfl
@[simp] theorem setPrevTs_acc (ts : Timestamp) : (s.setPrevTs ts).acc = s.acc := rfl
@[simp] theorem setPrevTs_prevTs (ts : Timestamp) : (s.setPrevTs ts).prevTs = ts := rfl
@[simp] theorem setPrevTs_prevValid (ts : Timestamp) : (s.setPrevTs ts).prevValid = s.prevValid := rfl
@[simp] theorem setPrevTs_pol (ts : Timestamp) : (s.setPrevTs ts).pol = s.pol := rfl
@[simp] theorem setPrevTs_lastAcc (ts : Timestamp) : (s.setPrevTs ts).lastAcc = s.lastAcc := rfl
@[simp] theorem setPrevTs_lastValid (ts : Timestamp) : (s.setPrevTs ts).lastValid = s.lastValid := rfl
@[simp] theorem setPrevTs_outValid (ts : Timestamp) : (s.setPrevTs ts).outValid = s.outValid := rfl
@[simp] theorem setPrevTs_outSym (ts : Timestamp) : (s.setPrevTs ts).outSym = s.outSym := rfl
@[simp] theorem setPrevTs_cfg (ts : Timestamp) : (s.setPrevTs ts).cfg = s.cfg := rfl
@[simp] theorem setPrevTs_fault (ts : Timestamp) : (s.setPrevTs ts).fault = s.fault := rfl
@[simp] theorem setPrevTs_trace (ts : Timestamp) : (s.setPrevTs ts).trace = s.trace := rfl
@[simp] theorem setPrevTs_delivered (ts : Timestamp) : (s.setPrevTs ts).delivered = s.delivered := rfl
@[simp] theorem setPrevTs_input (ts : Timestamp) : (s.setPrevTs ts).input = s.input := rfl

@[simp] theorem consumeEdge_dstate (ts : Timestamp) : (s.consumeEdge ts).dstate = s.dstate := rfl
@[simp] theorem consumeEdge_bitcnt (ts : Timestamp) : (s.consumeEdge ts).bitcnt = s.bitcnt := rfl
@[simp] theorem consumeEdge_acc (ts : Timestamp) : (s.consumeEdge ts).acc = s.acc := rfl
@[simp] theorem consumeEdge_prevTs (ts : Timestamp) : (s.consumeEdge ts).prevTs = ts := rfl
@[simp] theorem consumeEdge_prevValid (ts : Timestamp) : (s.consumeEdge ts).prevValid = s.prevValid := rfl
@[simp] theorem consumeEdge_pol (ts : Timestamp) : (s.consumeEdge ts).pol = !s.pol := rfl
@[simp] theorem consumeEdge_lastAcc (ts : Timestamp) : (s.consumeEdge ts).lastAcc = s.lastAcc := rfl
@[simp] theorem consumeEdge_lastValid (ts : Timestamp) : (s.consumeEdge ts).lastValid = s.lastValid := rfl
@[simp] theorem consumeEdge_outValid (ts : Timestamp) : (s.consumeEdge ts).outValid = s.outValid := rfl
@[simp] theorem consumeEdge_outSym (ts : Timestamp) : (s.consumeEdge ts).outSym = s.outSym := rfl
@[simp] theorem consumeEdge_cfg (ts : Timestamp) : (s.consumeEdge ts).cfg = s.cfg := rfl
@[simp] theorem consumeEdge_fault (ts : Timestamp) : (s.consumeEdge ts).fault = s.fault := rfl
@[simp] theorem consumeEdge_trace (ts : Timestamp) : (s.consumeEdge ts).trace = s.trace := rfl
@[simp] theorem consumeEdge_delivered (ts : Timestamp) : (s.consumeEdge ts).delivered = s.delivered := rfl
@[simp] theorem consumeEdge_input (ts : Timestamp) : (s.consumeEdge ts).input = s.input := rfl

@[simp] theorem writeDecoder_dstate (d : DState) (n : BitVec 4) (a : BitVec 16) : (s.writeDecoder d n a).dstate = d := rfl
@[simp] theorem writeDecoder_bitcnt (d : DState) (n : BitVec 4) (a : BitVec 16) : (s.writeDecoder d n a).bitcnt = n := rfl
@[simp] theorem writeDecoder_acc (d : DState) (n : BitVec 4) (a : BitVec 16) : (s.writeDecoder d n a).acc = a := rfl
@[simp] theorem writeDecoder_prevTs (d : DState) (n : BitVec 4) (a : BitVec 16) : (s.writeDecoder d n a).prevTs = s.prevTs := rfl
@[simp] theorem writeDecoder_prevValid (d : DState) (n : BitVec 4) (a : BitVec 16) : (s.writeDecoder d n a).prevValid = s.prevValid := rfl
@[simp] theorem writeDecoder_pol (d : DState) (n : BitVec 4) (a : BitVec 16) : (s.writeDecoder d n a).pol = s.pol := rfl
@[simp] theorem writeDecoder_lastAcc (d : DState) (n : BitVec 4) (a : BitVec 16) : (s.writeDecoder d n a).lastAcc = s.lastAcc := rfl
@[simp] theorem writeDecoder_lastValid (d : DState) (n : BitVec 4) (a : BitVec 16) : (s.writeDecoder d n a).lastValid = s.lastValid := rfl
@[simp] theorem writeDecoder_outValid (d : DState) (n : BitVec 4) (a : BitVec 16) : (s.writeDecoder d n a).outValid = s.outValid := rfl
@[simp] theorem writeDecoder_outSym (d : DState) (n : BitVec 4) (a : BitVec 16) : (s.writeDecoder d n a).outSym = s.outSym := rfl
@[simp] theorem writeDecoder_cfg (d : DState) (n : BitVec 4) (a : BitVec 16) : (s.writeDecoder d n a).cfg = s.cfg := rfl
@[simp] theorem writeDecoder_fault (d : DState) (n : BitVec 4) (a : BitVec 16) : (s.writeDecoder d n a).fault = s.fault := rfl
@[simp] theorem writeDecoder_trace (d : DState) (n : BitVec 4) (a : BitVec 16) : (s.writeDecoder d n a).trace = s.trace := rfl
@[simp] theorem writeDecoder_delivered (d : DState) (n : BitVec 4) (a : BitVec 16) : (s.writeDecoder d n a).delivered = s.delivered := rfl
@[simp] theorem writeDecoder_input (d : DState) (n : BitVec 4) (a : BitVec 16) : (s.writeDecoder d n a).input = s.input := rfl

@[simp] theorem setLastAcc_dstate (now : Instant) : (s.setLastAcc now).dstate = s.dstate := rfl
@[simp] theorem setLastAcc_bitcnt (now : Instant) : (s.setLastAcc now).bitcnt = s.bitcnt := rfl
@[simp] theorem setLastAcc_acc (now : Instant) : (s.setLastAcc now).acc = s.acc := rfl
@[simp] theorem setLastAcc_prevTs (now : Instant) : (s.setLastAcc now).prevTs = s.prevTs := rfl
@[simp] theorem setLastAcc_prevValid (now : Instant) : (s.setLastAcc now).prevValid = s.prevValid := rfl
@[simp] theorem setLastAcc_pol (now : Instant) : (s.setLastAcc now).pol = s.pol := rfl
@[simp] theorem setLastAcc_lastAcc (now : Instant) : (s.setLastAcc now).lastAcc = now := rfl
@[simp] theorem setLastAcc_lastValid (now : Instant) : (s.setLastAcc now).lastValid = s.lastValid := rfl
@[simp] theorem setLastAcc_outValid (now : Instant) : (s.setLastAcc now).outValid = s.outValid := rfl
@[simp] theorem setLastAcc_outSym (now : Instant) : (s.setLastAcc now).outSym = s.outSym := rfl
@[simp] theorem setLastAcc_cfg (now : Instant) : (s.setLastAcc now).cfg = s.cfg := rfl
@[simp] theorem setLastAcc_fault (now : Instant) : (s.setLastAcc now).fault = s.fault := rfl
@[simp] theorem setLastAcc_trace (now : Instant) : (s.setLastAcc now).trace = s.trace := rfl
@[simp] theorem setLastAcc_delivered (now : Instant) : (s.setLastAcc now).delivered = s.delivered := rfl
@[simp] theorem setLastAcc_input (now : Instant) : (s.setLastAcc now).input = s.input := rfl

@[simp] theorem setOutSym_dstate (sym : SymCode) : (s.setOutSym sym).dstate = s.dstate := rfl
@[simp] theorem setOutSym_bitcnt (sym : SymCode) : (s.setOutSym sym).bitcnt = s.bitcnt := rfl
@[simp] theorem setOutSym_acc (sym : SymCode) : (s.setOutSym sym).acc = s.acc := rfl
@[simp] theorem setOutSym_prevTs (sym : SymCode) : (s.setOutSym sym).prevTs = s.prevTs := rfl
@[simp] theorem setOutSym_prevValid (sym : SymCode) : (s.setOutSym sym).prevValid = s.prevValid := rfl
@[simp] theorem setOutSym_pol (sym : SymCode) : (s.setOutSym sym).pol = s.pol := rfl
@[simp] theorem setOutSym_lastAcc (sym : SymCode) : (s.setOutSym sym).lastAcc = s.lastAcc := rfl
@[simp] theorem setOutSym_lastValid (sym : SymCode) : (s.setOutSym sym).lastValid = s.lastValid := rfl
@[simp] theorem setOutSym_outValid (sym : SymCode) : (s.setOutSym sym).outValid = s.outValid := rfl
@[simp] theorem setOutSym_outSym (sym : SymCode) : (s.setOutSym sym).outSym = sym := rfl
@[simp] theorem setOutSym_cfg (sym : SymCode) : (s.setOutSym sym).cfg = s.cfg := rfl
@[simp] theorem setOutSym_fault (sym : SymCode) : (s.setOutSym sym).fault = s.fault := rfl
@[simp] theorem setOutSym_trace (sym : SymCode) : (s.setOutSym sym).trace = s.trace := rfl
@[simp] theorem setOutSym_delivered (sym : SymCode) : (s.setOutSym sym).delivered = s.delivered := rfl
@[simp] theorem setOutSym_input (sym : SymCode) : (s.setOutSym sym).input = s.input := rfl

@[simp] theorem emit_dstate (sym : SymCode) : (s.emit sym).dstate = s.dstate := rfl
@[simp] theorem emit_bitcnt (sym : SymCode) : (s.emit sym).bitcnt = s.bitcnt := rfl
@[simp] theorem emit_acc (sym : SymCode) : (s.emit sym).acc = s.acc := rfl
@[simp] theorem emit_prevTs (sym : SymCode) : (s.emit sym).prevTs = s.prevTs := rfl
@[simp] theorem emit_prevValid (sym : SymCode) : (s.emit sym).prevValid = s.prevValid := rfl
@[simp] theorem emit_pol (sym : SymCode) : (s.emit sym).pol = s.pol := rfl
@[simp] theorem emit_lastAcc (sym : SymCode) : (s.emit sym).lastAcc = s.lastAcc := rfl
@[simp] theorem emit_lastValid (sym : SymCode) : (s.emit sym).lastValid = s.lastValid := rfl
@[simp] theorem emit_outValid (sym : SymCode) : (s.emit sym).outValid = s.outValid := rfl
@[simp] theorem emit_outSym (sym : SymCode) : (s.emit sym).outSym = s.outSym := rfl
@[simp] theorem emit_cfg (sym : SymCode) : (s.emit sym).cfg = s.cfg := rfl
@[simp] theorem emit_fault (sym : SymCode) : (s.emit sym).fault = s.fault := rfl
@[simp] theorem emit_trace (sym : SymCode) : (s.emit sym).trace = s.trace := rfl
@[simp] theorem emit_delivered (sym : SymCode) : (s.emit sym).delivered = s.delivered ++ [sym] := rfl
@[simp] theorem emit_input (sym : SymCode) : (s.emit sym).input = s.input := rfl

@[simp] theorem takeFault_dstate (f : Fault) : (s.takeFault f).dstate = s.dstate := rfl
@[simp] theorem takeFault_bitcnt (f : Fault) : (s.takeFault f).bitcnt = s.bitcnt := rfl
@[simp] theorem takeFault_acc (f : Fault) : (s.takeFault f).acc = s.acc := rfl
@[simp] theorem takeFault_prevTs (f : Fault) : (s.takeFault f).prevTs = s.prevTs := rfl
@[simp] theorem takeFault_prevValid (f : Fault) : (s.takeFault f).prevValid = s.prevValid := rfl
@[simp] theorem takeFault_pol (f : Fault) : (s.takeFault f).pol = s.pol := rfl
@[simp] theorem takeFault_lastAcc (f : Fault) : (s.takeFault f).lastAcc = s.lastAcc := rfl
@[simp] theorem takeFault_lastValid (f : Fault) : (s.takeFault f).lastValid = s.lastValid := rfl
@[simp] theorem takeFault_outValid (f : Fault) : (s.takeFault f).outValid = s.outValid := rfl
@[simp] theorem takeFault_outSym (f : Fault) : (s.takeFault f).outSym = s.outSym := rfl
@[simp] theorem takeFault_cfg (f : Fault) : (s.takeFault f).cfg = s.cfg := rfl
@[simp] theorem takeFault_fault (f : Fault) : (s.takeFault f).fault = s.fault ||| faultBit f := rfl
@[simp] theorem takeFault_trace (f : Fault) : (s.takeFault f).trace = s.trace ++ [faultEntry f] := rfl
@[simp] theorem takeFault_delivered (f : Fault) : (s.takeFault f).delivered = s.delivered := rfl
@[simp] theorem takeFault_input (f : Fault) : (s.takeFault f).input = s.input := rfl

@[simp] theorem resetRegisters_dstate : s.resetRegisters.dstate = .shIdle := rfl
@[simp] theorem resetRegisters_bitcnt : s.resetRegisters.bitcnt = 0 := rfl
@[simp] theorem resetRegisters_acc : s.resetRegisters.acc = 0 := rfl
@[simp] theorem resetRegisters_prevTs : s.resetRegisters.prevTs = 0 := rfl
@[simp] theorem resetRegisters_prevValid : s.resetRegisters.prevValid = false := rfl
@[simp] theorem resetRegisters_pol : s.resetRegisters.pol = s.cfg.polInit := rfl
@[simp] theorem resetRegisters_lastAcc : s.resetRegisters.lastAcc = 0 := rfl
@[simp] theorem resetRegisters_lastValid : s.resetRegisters.lastValid = false := rfl
@[simp] theorem resetRegisters_outValid : s.resetRegisters.outValid = false := rfl
@[simp] theorem resetRegisters_outSym : s.resetRegisters.outSym = 0 := rfl
@[simp] theorem resetRegisters_cfg : s.resetRegisters.cfg = s.cfg := rfl
@[simp] theorem resetRegisters_fault : s.resetRegisters.fault = s.fault := rfl
@[simp] theorem resetRegisters_trace : s.resetRegisters.trace = s.trace := rfl
@[simp] theorem resetRegisters_delivered : s.resetRegisters.delivered = s.delivered := rfl
@[simp] theorem resetRegisters_input : s.resetRegisters.input = s.input := rfl

@[simp] theorem present_dstate (w : TxWord) : (s.present w).dstate = s.dstate := rfl
@[simp] theorem present_bitcnt (w : TxWord) : (s.present w).bitcnt = s.bitcnt := rfl
@[simp] theorem present_acc (w : TxWord) : (s.present w).acc = s.acc := rfl
@[simp] theorem present_prevTs (w : TxWord) : (s.present w).prevTs = s.prevTs := rfl
@[simp] theorem present_prevValid (w : TxWord) : (s.present w).prevValid = s.prevValid := rfl
@[simp] theorem present_pol (w : TxWord) : (s.present w).pol = s.pol := rfl
@[simp] theorem present_lastAcc (w : TxWord) : (s.present w).lastAcc = s.lastAcc := rfl
@[simp] theorem present_lastValid (w : TxWord) : (s.present w).lastValid = s.lastValid := rfl
@[simp] theorem present_outValid (w : TxWord) : (s.present w).outValid = s.outValid := rfl
@[simp] theorem present_outSym (w : TxWord) : (s.present w).outSym = s.outSym := rfl
@[simp] theorem present_cfg (w : TxWord) : (s.present w).cfg = s.cfg := rfl
@[simp] theorem present_fault (w : TxWord) : (s.present w).fault = s.fault := rfl
@[simp] theorem present_trace (w : TxWord) : (s.present w).trace = s.trace := rfl
@[simp] theorem present_delivered (w : TxWord) : (s.present w).delivered = s.delivered := rfl
@[simp] theorem present_input (w : TxWord) : (s.present w).input = w :: s.input := rfl

end Sys2Proof.Machine
end

