-- ==== Sys2Proof/Laws/DebounceGate.lean ====
section
/-! SUPPORT. What ACCEPT can answer and write, said once. -/

namespace Sys2Proof.Machine

/-- The three forms of ACCEPT's answer (42_debounce_gate.md R161). -/
theorem accept_cases (now : Instant) (sym : SymCode) (s : State) :
    ((s.lastValid = false ∨ s.lastAcc.toNat + s.cfg.qw.toNat ≤ now.toNat) ∧
      accept now sym s = (.accepted, (s.setLastAcc now).setLastValid)) ∨
    (s.lastValid = true ∧ s.lastAcc.toNat ≤ now.toNat ∧ now.toNat < s.lastAcc.toNat + s.cfg.qw.toNat ∧
      accept now sym s = (.debounced, s)) ∨
    (s.lastValid = true ∧ now.toNat < s.lastAcc.toNat ∧ accept now sym s = (.timeRegression, s)) := by
  unfold accept gateResult
  by_cases h0 : s.lastValid = false
  · simp [h0]
  · have h1 : s.lastValid = true := by simpa using h0
    by_cases h2 : now.toNat < s.lastAcc.toNat
    · simp [h1, h2]
    · by_cases h3 : s.cfg.qw.toNat ≤ now.toNat - s.lastAcc.toNat
      · left
        simp only [h1, h2, h3, Bool.true_eq_false, if_false, if_true, and_true, false_or]
        omega
      · right; left
        simp only [h1, h2, h3, Bool.true_eq_false, if_false, true_and, and_true]
        omega

end Sys2Proof.Machine
end

