-- ==== Sys2Proof/Laws/Decode.lean ====
section
/-! SUPPORT. The fields of a word laid out as 30_encoding.md R72 says, and the word put together from its fields. -/

namespace Sys2Proof

/-- A word from its four fields. -/
abbrev wordOfFields (op : BitVec 2) (rsv : BitVec 30) (ts : Timestamp) (now : Instant) : TxWord := op ++ rsv ++ ts ++ now

@[simp] theorem opField_wordOfFields (op : BitVec 2) (rsv : BitVec 30) (ts : Timestamp) (now : Instant) :
    opField (wordOfFields op rsv ts now) = op := by
  apply BitVec.eq_of_getElem_eq
  intro i hi
  simp only [opField, wordOfFields, BitVec.getElem_extractLsb', BitVec.getLsbD_append]
  rw [if_neg (by omega), if_neg (by omega), if_neg (by omega)]
  rw [show 126 + i - 64 - 32 - 30 = i by omega]
  exact BitVec.getLsbD_eq_getElem hi

@[simp] theorem rsvField_wordOfFields (op : BitVec 2) (rsv : BitVec 30) (ts : Timestamp) (now : Instant) :
    rsvField (wordOfFields op rsv ts now) = rsv := by
  apply BitVec.eq_of_getElem_eq
  intro i hi
  simp only [rsvField, wordOfFields, BitVec.getElem_extractLsb', BitVec.getLsbD_append]
  rw [if_neg (by omega), if_neg (by omega), if_pos (by omega)]
  rw [show 96 + i - 64 - 32 = i by omega]
  exact BitVec.getLsbD_eq_getElem hi

@[simp] theorem tsField_wordOfFields (op : BitVec 2) (rsv : BitVec 30) (ts : Timestamp) (now : Instant) :
    tsField (wordOfFields op rsv ts now) = ts := by
  apply BitVec.eq_of_getElem_eq
  intro i hi
  simp only [tsField, wordOfFields, BitVec.getElem_extractLsb', BitVec.getLsbD_append]
  rw [if_neg (by omega), if_pos (by omega)]
  rw [show 64 + i - 64 = i by omega]
  exact BitVec.getLsbD_eq_getElem hi

@[simp] theorem nowField_wordOfFields (op : BitVec 2) (rsv : BitVec 30) (ts : Timestamp) (now : Instant) :
    nowField (wordOfFields op rsv ts now) = now := by
  apply BitVec.eq_of_getElem_eq
  intro i hi
  simp only [nowField, wordOfFields, BitVec.getElem_extractLsb', BitVec.getLsbD_append]
  rw [if_pos (by omega)]
  rw [show 0 + i = i by omega]
  exact BitVec.getLsbD_eq_getElem hi

/-- A word is its four fields. -/
theorem word_eq_fields (w : TxWord) : w = wordOfFields (opField w) (rsvField w) (tsField w) (nowField w) := by
  apply BitVec.eq_of_getLsbD_eq
  intro i hi
  simp only [opField, rsvField, tsField, nowField, wordOfFields, BitVec.getLsbD_append, BitVec.getLsbD_extractLsb']
  split
  · simp [*]
  · split
    · rw [show 64 + (i - 64) = i by omega]; simp [*]
    · split
      · rw [show 96 + (i - 64 - 32) = i by omega]; simp [*]
      · rw [show 126 + (i - 64 - 32 - 30) = i by omega]; simp; omega

/-- Two words are equal if their fields are. -/
theorem word_ext {v w : TxWord} (ho : opField v = opField w) (hr : rsvField v = rsvField w) (ht : tsField v = tsField w)
    (hn : nowField v = nowField w) : v = w := by
  rw [word_eq_fields v, word_eq_fields w, ho, hr, ht, hn]

/-- Bits 125:0 are zero exactly when the three fields below `OP` are. -/
theorem belowOp_eq_zero {w : TxWord} : belowOp w = 0 ↔ rsvField w = 0 ∧ tsField w = 0 ∧ nowField w = 0 := by
  have hw : ∀ (len start : Nat), w.extractLsb' start len = 0 ↔ ∀ i < len, w.getLsbD (start + i) = false := by
    intro len start
    constructor
    · intro h i hi
      have := congrArg (fun v => v.getLsbD i) h
      simpa [BitVec.getLsbD_extractLsb', hi] using this
    · intro h
      apply BitVec.eq_of_getLsbD_eq
      intro i hi
      simp [hi, h i hi]
  simp only [belowOp, rsvField, tsField, nowField, hw]
  constructor
  · intro h
    exact ⟨fun i hi => by simpa using h (96 + i) (by omega), fun i hi => by simpa using h (64 + i) (by omega),
      fun i hi => by simpa using h i (by omega)⟩
  · rintro ⟨h1, h2, h3⟩ i hi
    rw [Nat.zero_add]
    rcases Nat.lt_or_ge i 64 with h | h
    · simpa using h3 i h
    · rcases Nat.lt_or_ge i 96 with h' | h'
      · have := h2 (i - 64) (by omega)
        rwa [show 64 + (i - 64) = i by omega] at this
      · have := h1 (i - 96) (by omega)
        rwa [show 96 + (i - 96) = i by omega] at this

end Sys2Proof
end

