-- ==== Sys2Proof/Laws/PulseDecoder.lean ====
section
/-! SUPPORT. What one PD_STEP can do, said once for each position and once for all: either it goes on with NoSymbol, or it folds
back to the reset decoder state. -/

namespace Sys2Proof.Machine

variable {cfg : Config} {d : DState} {n : BitVec 4} {a : BitVec 16} {iv : Timestamp} {isMark : Bool}

/-- A full count is 15: `BITCNT` never holds 16 (10_state.md R22). -/
theorem bitcnt_eq_15 (h : ¬ n.toNat + 1 < 16) : n = 15 := by
  apply BitVec.eq_of_toNat_eq
  have := n.isLt
  simp
  omega

/-- 40_pulse_decoder.md R105 and R106, once the bit is known. -/
theorem accumulate_cases (n : BitVec 4) (a : BitVec 16) (b : Bool) :
    (n.toNat + 1 < 16 ∧ accumulate n a b = goOn .rbMark (n + 1) (accWithBit n a b)) ∨
    (n = 15 ∧ checkByte (accWithBit n a b) = ~~~commandByte (accWithBit n a b) ∧
      accumulate n a b = foldBack .symbol (commandByte (accWithBit n a b))) ∨
    (n = 15 ∧ checkByte (accWithBit n a b) ≠ ~~~commandByte (accWithBit n a b) ∧
      accumulate n a b = foldBack .errChecksum (commandByte (accWithBit n a b))) := by
  unfold accumulate complete
  by_cases h : n.toNat + 1 < 16
  · exact .inl ⟨h, if_pos h⟩
  · rw [if_neg (show ¬ n.toNat + 1 < Config.frameBits from h)]
    by_cases hc : checkByte (accWithBit n a b) = ~~~commandByte (accWithBit n a b)
    · exact .inr (.inl ⟨bitcnt_eq_15 h, hc, if_pos hc⟩)
    · exact .inr (.inr ⟨bitcnt_eq_15 h, hc, if_neg hc⟩)

theorem pdShIdle_cases (cfg : Config) (iv : Timestamp) (isMark : Bool) :
    (isMarkOf cfg iv isMark .hdrMark = true ∧ pdShIdle cfg iv isMark = goOn .shMark 0 0) ∨
    (isMarkOf cfg iv isMark .hdrMark = false ∧ pdShIdle cfg iv isMark = errTimingResult) := by
  unfold pdShIdle
  cases isMarkOf cfg iv isMark .hdrMark <;> simp

theorem pdShMark_cases (cfg : Config) (iv : Timestamp) (isMark : Bool) :
    (isSpaceOf cfg iv isMark .hdrSpace = true ∧ pdShMark cfg iv isMark = goOn .rbMark 0 0) ∨
    (isSpaceOf cfg iv isMark .hdrSpace = false ∧ isSpaceOf cfg iv isMark .rptSpace = true ∧
      pdShMark cfg iv isMark = foldBack .repeatCode 0) ∨
    (isSpaceOf cfg iv isMark .hdrSpace = false ∧ isSpaceOf cfg iv isMark .rptSpace = false ∧
      pdShMark cfg iv isMark = errTimingResult) := by
  unfold pdShMark
  cases isSpaceOf cfg iv isMark .hdrSpace <;> cases isSpaceOf cfg iv isMark .rptSpace <;> simp

theorem pdRbMark_cases (cfg : Config) (n : BitVec 4) (a : BitVec 16) (iv : Timestamp) (isMark : Bool) :
    (isMarkOf cfg iv isMark .bitMark = true ∧ pdRbMark cfg n a iv isMark = goOn .rbSpace n a) ∨
    (isMarkOf cfg iv isMark .bitMark = false ∧ pdRbMark cfg n a iv isMark = errTimingResult) := by
  unfold pdRbMark
  cases isMarkOf cfg iv isMark .bitMark <;> simp

theorem pdRbSpace_cases (cfg : Config) (n : BitVec 4) (a : BitVec 16) (iv : Timestamp) (isMark : Bool) :
    (isSpaceOf cfg iv isMark .zeroSpace = true ∧ pdRbSpace cfg n a iv isMark = accumulate n a false) ∨
    (isSpaceOf cfg iv isMark .zeroSpace = false ∧ isSpaceOf cfg iv isMark .oneSpace = true ∧
      pdRbSpace cfg n a iv isMark = accumulate n a true) ∨
    (isSpaceOf cfg iv isMark .zeroSpace = false ∧ isSpaceOf cfg iv isMark .oneSpace = false ∧
      pdRbSpace cfg n a iv isMark = errTimingResult) := by
  unfold pdRbSpace
  cases isSpaceOf cfg iv isMark .zeroSpace <;> cases isSpaceOf cfg iv isMark .oneSpace <;> simp

/-- Every PD_STEP either goes on, to one of three positions, or folds back with another outcome (40_pulse_decoder.md R102 to
R107). -/
theorem pdStep_shape (cfg : Config) (d : DState) (n : BitVec 4) (a : BitVec 16) (iv : Timestamp) (isMark : Bool) :
    (pdStep cfg d n a iv isMark = goOn .shMark 0 0 ∨ pdStep cfg d n a iv isMark = goOn .rbMark 0 0 ∨
      (d = .rbMark ∧ pdStep cfg d n a iv isMark = goOn .rbSpace n a) ∨
      (d = .rbSpace ∧ n.toNat + 1 < 16 ∧
        ∃ b, pdStep cfg d n a iv isMark = goOn .rbMark (n + 1) (accWithBit n a b))) ∨
    (∃ out code, out ≠ .noSymbol ∧ pdStep cfg d n a iv isMark = foldBack out code) := by
  cases d with
  | shIdle =>
    rcases pdShIdle_cases cfg iv isMark with ⟨-, e⟩ | ⟨-, e⟩
    · exact .inl (.inl e)
    · exact .inr ⟨_, _, by simp, e⟩
  | shMark =>
    rcases pdShMark_cases cfg iv isMark with ⟨-, e⟩ | ⟨-, -, e⟩ | ⟨-, -, e⟩
    · exact .inl (.inr (.inl e))
    · exact .inr ⟨_, _, by simp, e⟩
    · exact .inr ⟨_, _, by simp, e⟩
  | rbMark =>
    rcases pdRbMark_cases cfg n a iv isMark with ⟨-, e⟩ | ⟨-, e⟩
    · exact .inl (.inr (.inr (.inl ⟨rfl, e⟩)))
    · exact .inr ⟨_, _, by simp, e⟩
  | rbSpace =>
    have go : ∀ b, pdRbSpace cfg n a iv isMark = accumulate n a b →
        (n.toNat + 1 < 16 ∧ ∃ b, pdRbSpace cfg n a iv isMark = goOn .rbMark (n + 1) (accWithBit n a b)) ∨
        ∃ out code, out ≠ .noSymbol ∧ pdRbSpace cfg n a iv isMark = foldBack out code := by
      intro b hb
      rcases accumulate_cases n a b with ⟨h, e⟩ | ⟨-, -, e⟩ | ⟨-, -, e⟩
      · exact .inl ⟨h, b, hb.trans e⟩
      · exact .inr ⟨_, _, by simp, hb.trans e⟩
      · exact .inr ⟨_, _, by simp, hb.trans e⟩
    have fin : (n.toNat + 1 < 16 ∧ ∃ b, pdRbSpace cfg n a iv isMark = goOn .rbMark (n + 1) (accWithBit n a b)) ∨
        ∃ out code, out ≠ .noSymbol ∧ pdRbSpace cfg n a iv isMark = foldBack out code := by
      rcases pdRbSpace_cases cfg n a iv isMark with ⟨-, e⟩ | ⟨-, -, e⟩ | ⟨-, -, e⟩
      · exact go false e
      · exact go true e
      · exact .inr ⟨_, _, by simp, e⟩
    rcases fin with ⟨h, e⟩ | e
    · exact .inl (.inr (.inr (.inr ⟨rfl, h, e⟩)))
    · exact .inr e

/-- An outcome other than NoSymbol leaves nothing of the frame. -/
theorem pdStep_foldBack (h : (pdStep cfg d n a iv isMark).out ≠ .noSymbol) :
    pdStep cfg d n a iv isMark = foldBack (pdStep cfg d n a iv isMark).out (pdStep cfg d n a iv isMark).code := by
  rcases pdStep_shape cfg d n a iv isMark with (e | e | ⟨-, e⟩ | ⟨-, -, b, e⟩) | ⟨out, code, -, e⟩
  · exact absurd (by rw [e]; rfl) h
  · exact absurd (by rw [e]; rfl) h
  · exact absurd (by rw [e]; rfl) h
  · exact absurd (by rw [e]; rfl) h
  · rw [e]; rfl

end Sys2Proof.Machine
end

