-- ==== Sys2Proof/Laws/DecoderLoop.lean ====
section
/-! SUPPORT. What one EDGE can do, said once. -/

namespace Sys2Proof.Machine

/-- The state an EDGE leaves before PulseDecoder's outcome is handled. -/
abbrev State.afterDecode (ts : Timestamp) (s : State) : State :=
  (s.consumeEdge ts).writeDecoder (decodeEdge ts s).dstate (decodeEdge ts s).bitcnt (decodeEdge ts s).acc

/-- The forms an EDGE's effect can take (43_decoder_loop.md R180; 60_exceptions.md R227). -/
theorem edgeEffect_cases (ts : Timestamp) (now : Instant) (s : State) :
    (s.outValid = true ∧ edgeEffect ts now s = s.record .lost 0) ∨
    (s.outValid = false ∧ s.prevValid = false ∧
      edgeEffect ts now s = (s.consumeEdge ts).setPrevValid.record .primed 0) ∨
    (s.outValid = false ∧ s.prevValid = true ∧
      (((decodeEdge ts s).out ≠ .symbol ∧
          ∃ d v, d ∈ [Disposition.noSym, .repeatCode, .errTiming, .errChecksum] ∧
            edgeEffect ts now s = (s.afterDecode ts).record d v) ∨
        ((decodeEdge ts s).out = .symbol ∧ mapCode s.cfg (decodeEdge ts s).code = none ∧
          edgeEffect ts now s = (s.afterDecode ts).record .unmapped (decodeEdge ts s).code) ∨
        (∃ sym, (decodeEdge ts s).out = .symbol ∧ mapCode s.cfg (decodeEdge ts s).code = some sym ∧
          (((s.lastValid = false ∨ s.lastAcc.toNat + s.cfg.qw.toNat ≤ now.toNat) ∧
              edgeEffect ts now s =
                ((((((s.afterDecode ts).setLastAcc now).setLastValid).setOutSym sym).setOutValid).record
                  .accepted (symVal sym))) ∨
            (s.lastValid = true ∧ s.lastAcc.toNat ≤ now.toNat ∧ now.toNat < s.lastAcc.toNat + s.cfg.qw.toNat ∧
              edgeEffect ts now s = (s.afterDecode ts).record .debounced (symVal sym)) ∨
            (s.lastValid = true ∧ now.toNat < s.lastAcc.toNat ∧
              edgeEffect ts now s = (s.afterDecode ts).takeFault .timeRegression))))) := by
  unfold edgeEffect
  by_cases ho : s.outValid = true
  · simp [ho]
  · have ho' : s.outValid = false := by simpa using ho
    by_cases hp : s.prevValid = false
    · simp [ho', hp]
    · have hp' : s.prevValid = true := by simpa using hp
      refine .inr (.inr ⟨ho', hp', ?_⟩)
      simp only [ho', hp', Bool.false_eq_true, Bool.true_eq_false, if_false]
      cases hout : (decodeEdge ts s).out with
      | noSymbol => exact .inl ⟨by simp, .noSym, 0, by simp, rfl⟩
      | repeatCode => exact .inl ⟨by simp, .repeatCode, 0, by simp, rfl⟩
      | errTiming => exact .inl ⟨by simp, .errTiming, 0, by simp, rfl⟩
      | errChecksum => exact .inl ⟨by simp, .errChecksum, _, by simp, rfl⟩
      | symbol =>
        right
        simp only [handleOutcome, mapThenGate, State.afterDecode, writeDecoder_cfg, consumeEdge_cfg]
        cases hm : mapCode s.cfg (decodeEdge ts s).code with
        | none => exact .inl ⟨trivial, rfl, rfl⟩
        | some sym =>
          refine .inr ⟨sym, trivial, rfl, ?_⟩
          simp only [gateSymbol]
          rcases accept_cases now sym (s.afterDecode ts) with ⟨h, e⟩ | ⟨h1, h2, h3, e⟩ | ⟨h1, h2, e⟩ <;>
            simp only [State.afterDecode, writeDecoder_cfg, consumeEdge_cfg, writeDecoder_lastValid, consumeEdge_lastValid,
              writeDecoder_lastAcc, consumeEdge_lastAcc] at * <;> rw [e]
          · exact .inl ⟨h, rfl⟩
          · exact .inr (.inl ⟨h1, h2, h3, rfl⟩)
          · exact .inr (.inr ⟨h1, h2, rfl⟩)

end Sys2Proof.Machine
end

