-- ==== Sys2Proof/Laws/Operands.lean ====
section
/-! SUPPORT. The tolerance and role tests as propositions, and what disjoint bands give. -/

namespace Sys2Proof.Machine

theorem inBand_iff {cfg : Config} {iv : Timestamp} {n : Nominal} : inBand cfg iv n = true ↔
    (cfg.nominal n).toNat * (100 - cfg.tolPct.toNat) ≤ 100 * iv.toNat ∧
      100 * iv.toNat ≤ (cfg.nominal n).toNat * (100 + cfg.tolPct.toNat) := by
  simp [inBand]

theorem roleOk_iff {cfg : Config} {isMark want : Bool} :
    roleOk cfg isMark want = true ↔ cfg.polCheck = false ∨ isMark = want := by
  simp [roleOk]

theorem inBand_lo_le {cfg : Config} {iv : Timestamp} {n : Nominal} (h : inBand cfg iv n = true) : (band cfg n).1 ≤ iv.toNat := by
  have := (inBand_iff.1 h).1
  simp only [band, bandLo]
  omega

theorem inBand_le_hi {cfg : Config} {iv : Timestamp} {n : Nominal} (h : inBand cfg iv n = true) : iv.toNat ≤ (band cfg n).2 := by
  have := (inBand_iff.1 h).2
  simp only [band, bandHi]
  omega

/-- An interval is in at most one of two disjoint bands. -/
theorem not_inBand_of_disjoint {cfg : Config} {iv : Timestamp} {m n : Nominal} (hd : cfg.bandsDisjoint m n = true)
    (hm : inBand cfg iv m = true) : inBand cfg iv n = false := by
  rw [Bool.eq_false_iff]
  intro hn
  have h1 := inBand_lo_le hm
  have h2 := inBand_le_hi hm
  have h3 := inBand_lo_le hn
  have h4 := inBand_le_hi hn
  simp only [Config.bandsDisjoint, Bool.or_eq_true, decide_eq_true_eq] at hd
  omega

/-- The whole interval shifts with the timestamps: only their difference counts (43_decoder_loop.md R182). -/
theorem interval_shift (ts prev c : Timestamp) : interval (ts + c) (prev + c) = interval ts prev := by
  simp only [interval]
  bv_omega

end Sys2Proof.Machine
end

