-- ==== Sys2Proof/Laws/Frame.lean ====
section
/-! SUPPORT. PulseDecoder over a sequence of intervals: where a run of intervals ends, how two runs join, and what the data bits
of a frame do. -/

namespace Sys2Proof.Machine

/-- The registers `(DSTATE, BITCNT, ACC)` after a sequence of intervals. -/
def pdEnd (cfg : Config) (d : DState) (n : BitVec 4) (a : BitVec 16) :
    List (Bool × Timestamp) → DState × BitVec 4 × BitVec 16
  | [] => (d, n, a)
  | (isMark, iv) :: rest =>
    pdEnd cfg (pdStep cfg d n a iv isMark).dstate (pdStep cfg d n a iv isMark).bitcnt (pdStep cfg d n a iv isMark).acc rest

theorem pdRun_append (cfg : Config) (d : DState) (n : BitVec 4) (a : BitVec 16) (l1 l2 : List (Bool × Timestamp)) :
    pdRun cfg d n a (l1 ++ l2) =
      pdRun cfg d n a l1 ++
        pdRun cfg (pdEnd cfg d n a l1).1 (pdEnd cfg d n a l1).2.1 (pdEnd cfg d n a l1).2.2 l2 := by
  induction l1 generalizing d n a with
  | nil => rfl
  | cons p r ih => simp [pdRun, pdEnd, ih]

theorem pdEnd_append (cfg : Config) (d : DState) (n : BitVec 4) (a : BitVec 16) (l1 l2 : List (Bool × Timestamp)) :
    pdEnd cfg d n a (l1 ++ l2) =
      pdEnd cfg (pdEnd cfg d n a l1).1 (pdEnd cfg d n a l1).2.1 (pdEnd cfg d n a l1).2.2 l2 := by
  induction l1 generalizing d n a with
  | nil => rfl
  | cons p r ih => simp [pdEnd, ih]

theorem pdRun_length (cfg : Config) (d : DState) (n : BitVec 4) (a : BitVec 16) (l : List (Bool × Timestamp)) :
    (pdRun cfg d n a l).length = l.length := by
  induction l generalizing d n a with
  | nil => rfl
  | cons p r ih => simp [pdRun, ih]

/-- A sequence of intervals that fits joined slots is cut where the slots join. -/
theorem inBands_append {cfg : Config} {l1 l2 : List Slot} {ivs : List Timestamp} (h : inBands cfg (l1 ++ l2) ivs) :
    ∃ a b, ivs = a ++ b ∧ inBands cfg l1 a ∧ inBands cfg l2 b := by
  induction l1 generalizing ivs with
  | nil => exact ⟨[], ivs, rfl, .nil, h⟩
  | cons x r ih =>
    obtain ⟨y, l', h1, h2, rfl⟩ := List.forall₂_cons_left_iff.1 h
    obtain ⟨a, b, rfl, h3, h4⟩ := ih h2
    exact ⟨y :: a, b, rfl, .cons h1 h3, h4⟩

/-- `ACC` after the data bits `bs`, the first of them bit `n`. -/
def accBits (n : BitVec 4) (a : BitVec 16) : List Bool → BitVec 16
  | [] => a
  | b :: r => accBits (n + 1) (accWithBit n a b) r

/-- In a well-formed `CONFIG`, a space in the band of bit `b` accumulates `b`. -/
theorem pdStep_rbSpace_of_inBand {cfg : Config} (hc : cfg.wf = true) (n : BitVec 4) (a : BitVec 16) {iv : Timestamp} {b : Bool}
    (h : inBand cfg iv (if b then .oneSpace else .zeroSpace) = true) :
    pdStep cfg .rbSpace n a iv false = accumulate n a b := by
  cases b
  · simp at h
    simp [pdStep, pdRbSpace, isSpaceOf, roleOk, h]
  · simp at h
    have hz : inBand cfg iv .zeroSpace = false := by
      rw [Bool.eq_false_iff]
      intro hz
      rw [not_inBand_of_disjoint (config_wf_iff.1 hc).2.2.1 hz] at h
      cases h
    simp [pdStep, pdRbSpace, isSpaceOf, roleOk, h, hz]

theorem pdStep_rbMark_of_inBand {cfg : Config} (n : BitVec 4) (a : BitVec 16) {iv : Timestamp}
    (h : inBand cfg iv .bitMark = true) : pdStep cfg .rbMark n a iv true = goOn .rbSpace n a := by
  simp [pdStep, pdRbMark, isMarkOf, roleOk, h]

/-- Data bits before the last, each a mark and a space in its bands: no outcome but NoSymbol, and where the decoder ends. -/
theorem pdRun_bits {cfg : Config} (hc : cfg.wf = true) (bs : List Bool) (n : BitVec 4) (a : BitVec 16) (ivs : List Timestamp)
    (hn : n.toNat + bs.length ≤ 15) (h : inBands cfg (bs.flatMap bitSlots) ivs) :
    ivs.length = 2 * bs.length ∧
      (∀ r ∈ pdRun cfg .rbMark n a (((bs.flatMap bitSlots).map Prod.fst).zip ivs), r.out = .noSymbol) ∧
      pdEnd cfg .rbMark n a (((bs.flatMap bitSlots).map Prod.fst).zip ivs) =
        (.rbMark, n + BitVec.ofNat 4 bs.length, accBits n a bs) := by
  induction bs generalizing n a ivs with
  | nil =>
    simp [inBands] at h
    subst h
    simp [pdRun, pdEnd, accBits]
  | cons b rest ih =>
    simp only [List.flatMap_cons, bitSlots, List.cons_append, List.nil_append, inBands] at h
    obtain ⟨iv1, l1, h1, h', rfl⟩ := List.forall₂_cons_left_iff.1 h
    obtain ⟨iv2, l2, h2, h'', rfl⟩ := List.forall₂_cons_left_iff.1 h'
    simp only [List.length_cons] at hn
    have hlt : n.toNat + 1 < 16 := by omega
    have e2 : pdStep cfg .rbSpace n a iv2 false = goOn .rbMark (n + 1) (accWithBit n a b) := by
      rw [pdStep_rbSpace_of_inBand hc n a h2, accumulate, if_pos (show _ < Config.frameBits from hlt)]
    have en : (n + 1).toNat = n.toNat + 1 := by simp [BitVec.toNat_add]; omega
    obtain ⟨k1, k2, k3⟩ := ih (n + 1) (accWithBit n a b) l2 (by omega) h''
    refine ⟨by simp [k1]; omega, ?_, ?_⟩
    · intro r hr
      simp only [List.flatMap_cons, bitSlots, List.cons_append, List.nil_append, List.map_cons, List.zip_cons_cons, pdRun,
        pdStep_rbMark_of_inBand n a h1, goOn, e2, List.mem_cons] at hr
      rcases hr with rfl | rfl | hr
      · rfl
      · rfl
      · exact k2 r hr
    · simp only [List.flatMap_cons, bitSlots, List.cons_append, List.nil_append, List.map_cons, List.zip_cons_cons, pdEnd,
        pdStep_rbMark_of_inBand n a h1, goOn, e2]
      rw [show pdEnd cfg .rbMark (n + 1) (accWithBit n a b) _ = _ from k3]
      simp only [accBits, List.length_cons]
      congr 2
      apply BitVec.eq_of_toNat_eq
      simp [BitVec.toNat_add, BitVec.toNat_ofNat]
      omega

/-- The 16 data bits of a frame for code `c`, in the order they go on air. -/
def frameBitsOf (c : Code) : List Bool :=
  (List.range 8).map (fun i => c.getLsbD i) ++ (List.range 8).map (fun i => (~~~c).getLsbD i)

theorem frameSlots_eq (c : Code) : frameSlots c (~~~c) = headerSlots ++ (frameBitsOf c).flatMap bitSlots := by
  simp [frameSlots, byteSlots, frameBitsOf, List.flatMap_append, List.flatMap_map]

theorem frameSlots_length (c k : Code) : (frameSlots c k).length = 34 := by
  simp [frameSlots, headerSlots, byteSlots, bitSlots, List.range, List.range.loop]

theorem nominal_inBand_reference (n : Nominal) : inBand Config.reference (Config.reference.nominal n) n = true := by
  cases n <;> decide

end Sys2Proof.Machine
end

