-- ==== Sys2Proof/Laws/PerInstr.lean ====
section
/-! SUPPORT. Statements made for each transaction in turn. Family `EncodedFields`: the four fields of a transaction's word are
those 30_encoding.md R72 gives it. -/

namespace Sys2Proof.Laws.EncodedFields

/-- `OP` is the transaction's, `RSV` is zero, and `TS` and `NOW` hold EDGE's operands, or zero in the other three. -/
def Statement (i : Instr) : Prop :=
  rsvField (encode i) = 0 ∧
    match i with
    | .nop => opField (encode i) = 0b00 ∧ tsField (encode i) = 0 ∧ nowField (encode i) = 0
    | .edge ts now => opField (encode i) = 0b01 ∧ tsField (encode i) = ts ∧ nowField (encode i) = now
    | .deliver => opField (encode i) = 0b10 ∧ tsField (encode i) = 0 ∧ nowField (encode i) = 0
    | .reset => opField (encode i) = 0b11 ∧ tsField (encode i) = 0 ∧ nowField (encode i) = 0

theorem nop : Statement .nop := by unfold Statement; decide

theorem edge (ts : Timestamp) (now : Instant) : Statement (.edge ts now) :=
  ⟨rsvField_wordOfFields _ _ _ _, opField_wordOfFields _ _ _ _, tsField_wordOfFields _ _ _ _, nowField_wordOfFields _ _ _ _⟩

theorem deliver : Statement .deliver := by unfold Statement; decide

theorem reset : Statement .reset := by unfold Statement; decide

end Sys2Proof.Laws.EncodedFields
end

