-- ==== Sys2Proof/Laws/Stream.lean ====
section
/-! SUPPORT. What one step can do, said once. -/

namespace Sys2Proof.Machine

/-- The machine is not blocked exactly when its `CONFIG` is well-formed and no fault is recorded. -/
theorem blocked_eq_none {s : State} : blocked s = none ↔ s.cfg.wf = true ∧ s.fault = 0 := by
  have key : ∀ f : BitVec 2, (f.getLsbD 0 = false ∧ f.getLsbD 1 = false) ↔ f = 0 := by decide
  unfold blocked State.stuckFault
  by_cases hc : s.cfg.wf = true
  · rw [if_pos hc]
    rw [← key]
    cases s.fault.getLsbD 0 <;> cases s.fault.getLsbD 1 <;> simp [hc]
  · rw [if_neg hc]
    simp [hc]

theorem blocked_not_next {s t : State} : blocked s ≠ some (.next t) := by
  unfold blocked
  split
  · cases s.stuckFault <;> simp
  · simp

/-- A running machine's step is one step over its stream. -/
theorem step_of_running {s : State} (hc : s.cfg.wf = true) (hf : s.fault = 0) : step s = runStream s := by
  unfold step
  rw [blocked_eq_none.2 ⟨hc, hf⟩]

/-- What a step that answers a next state has done. -/
theorem step_cases {s t : State} (h : step s = .next t) :
    s.cfg.wf = true ∧ s.fault = 0 ∧
      ((s.input = [] ∧ t = s) ∨
        ∃ w rest, s.input = w :: rest ∧
          ((∃ i, decode w = .legal i ∧ exec i { s with input := rest } = .next t) ∨
            (∃ why, decode w = .illegal why ∧ t = ({ s with input := rest } : State).takeFault .refusedWord))) := by
  unfold step at h
  cases hb : blocked s with
  | some o =>
    rw [hb] at h
    exact absurd (hb.trans (congrArg some h)) blocked_not_next
  | none =>
    rw [hb] at h
    obtain ⟨hc, hf⟩ := blocked_eq_none.1 hb
    refine ⟨hc, hf, ?_⟩
    simp only [runStream] at h
    cases hi : s.input with
    | nil =>
      rw [hi] at h
      exact .inl ⟨rfl, (Host.Outcome.next.inj h).symm⟩
    | cons w rest =>
      rw [hi] at h
      refine .inr ⟨w, rest, rfl, ?_⟩
      simp only [runWord] at h
      cases hd : decode w with
      | legal i =>
        rw [hd] at h
        exact .inl ⟨i, rfl, h⟩
      | illegal why =>
        rw [hd] at h
        exact .inr ⟨why, rfl, (Host.Outcome.next.inj h).symm⟩

/-- What a transaction that runs has done, one case for each. -/
theorem exec_cases {i : Instr} {s t : State} (h : exec i s = .next t) :
    (i = .nop ∧ t = s.record .idle 0) ∨ (∃ ts now, i = .edge ts now ∧ t = edgeEffect ts now s) ∨
      (i = .deliver ∧ t = deliverEffect s) ∨ (i = .reset ∧ t = s.resetRegisters.record .reset 0) := by
  cases i with
  | nop => exact .inl ⟨rfl, (Host.Outcome.next.inj h).symm⟩
  | edge ts now => exact .inr (.inl ⟨ts, now, rfl, (Host.Outcome.next.inj h).symm⟩)
  | deliver => exact .inr (.inr (.inl ⟨rfl, (Host.Outcome.next.inj h).symm⟩))
  | reset => exact .inr (.inr (.inr ⟨rfl, (Host.Outcome.next.inj h).symm⟩))

/-- The two forms of DELIVER's effect (43_decoder_loop.md R188). -/
theorem deliverEffect_cases (s : State) :
    (s.outValid = true ∧
      deliverEffect s = (s.emit s.outSym).clearOutValid.record .delivered (symVal s.outSym)) ∨
    (s.outValid = false ∧ deliverEffect s = s.record .idle 0) := by
  unfold deliverEffect
  cases h : s.outValid <;> simp

end Sys2Proof.Machine
end

