-- ==== Sys2Proof/Tests/Slice0.lean ====
section
/-! SUPPORT. Tests, whose expected values are those of spec/ (95_test_vectors.md unless another file is named), and for each
obligation with hypotheses a witness: concrete data that meet them together, clause by clause. -/

open Sys2Proof Sys2Proof.Machine

namespace Sys2Proof.Tests

/-! ## Fixtures -/

/-- The next state of an outcome, if it is one. -/
def nextOf (o : Host.Outcome State Fault Refusal) : Option State :=
  match o with
  | .next t => some t
  | .fault _ => none
  | .refused _ => none

/-- `TEST_MAP` of 95_test_vectors.md section 0. -/
def testMap : List MapPair :=
  [(0x16, 0), (0x0C, 1), (0x18, 2), (0x5E, 3), (0x08, 4), (0x1C, 5), (0x5A, 6), (0x42, 7), (0x52, 8), (0x4A, 9), (0x40, 10),
   (0x44, 11)]

/-- This hardware's `CONFIG` with that table. -/
def testCfg : Config := { Config.reference with mapTable := .named testMap }

/-- The reset state under it. -/
def idle : State := State.construct testCfg

/-- The state an outcome leads to. -/
def after (o : Host.Outcome State Fault Refusal) : State := (nextOf o).getD idle

theorem next_after {o : Host.Outcome State Fault Refusal} (h : (nextOf o).isSome = true) : o = .next (after o) := by
  cases o <;> first | rfl | cases h

/-- A state with the words of some transactions to come. -/
def loaded (is : List Instr) (s : State) : State := { s with input := is.map encode }

/-- Primed by an edge at 1000 that ended a mark or a space. -/
def primed (pol : Bool) : State := { idle with prevValid := true, prevTs := 1000, pol := pol }

/-- The start of V5: the space of the last data bit of code 0x0C is to come. -/
def lastSpace : State := { primed false with dstate := .rbSpace, bitcnt := 15, acc := 0x730C }

/-- The start of V6: as V5, with an earlier acceptance at 1 000 000. -/
def lastSpaceLater : State := { lastSpace with lastValid := true, lastAcc := 1000000 }

/-- The start of V4: `ONE` waits for EventSink. -/
def pendingOne : State := { primed true with outValid := true, outSym := 1 }

/-- `FAULT` has bit 0 set. -/
def faulted : State := { idle with fault := 1 }

/-! ## WellFormed -/

theorem test_wf_reference : Config.reference.wf = true := by decide
theorem test_wf_testCfg : testCfg.wf = true := by decide
theorem test_wf_refuses_zero_duration :
    [{ testCfg with hdrMark := 0 }, { testCfg with hdrSpace := 0 }, { testCfg with rptSpace := 0 },
      { testCfg with bitMark := 0 }, { testCfg with zeroSpace := 0 }, { testCfg with oneSpace := 0 }].all
      (fun cfg => cfg.wf == false) = true := by decide
theorem test_wf_refuses_tolerance_100 : ({ testCfg with tolPct := 100 } : Config).wf = false := by decide
theorem test_wf_refuses_hdr_rpt_overlap : ({ testCfg with rptSpace := 4000 } : Config).wf = false := by decide
theorem test_wf_refuses_zero_one_overlap : ({ testCfg with oneSpace := 700 } : Config).wf = false := by decide
theorem test_wf_refuses_eleven_pairs :
    hasTwelvePairs testMap.tail = false ∧ ({ testCfg with mapTable := .named testMap.tail } : Config).wf = false := by decide
theorem test_wf_refuses_repeated_code :
    codesDistinct ((0x18, 0) :: testMap.tail) = false ∧
      ({ testCfg with mapTable := .named ((0x18, 0) :: testMap.tail) } : Config).wf = false := by decide
theorem test_wf_refuses_repeated_symbol :
    symbolsOnceEach ((0x16, 2) :: testMap.tail) = false ∧
      ({ testCfg with mapTable := .named ((0x16, 2) :: testMap.tail) } : Config).wf = false := by decide
theorem test_wf_refuses_missing_fixed_pair :
    hasFixedPair (testMap.map fun p => if p.1 == 0x0C then (0x0D, p.2) else p) = false ∧
      ({ testCfg with mapTable := .named (testMap.map fun p => if p.1 == 0x0C then (0x0D, p.2) else p) } : Config).wf = false := by
  decide

/-! ## Decode -/

/-- `OP` 00, all else zero (30_encoding.md R81). -/
theorem test_decode_nop : decode (0b00#2 ++ 0#126) = .legal .nop := by decide
/-- `OP` 01, `RSV` zero, `TS` 9000, `NOW` 9000 (30_encoding.md R73). -/
theorem test_decode_edge : decode 0x40000000000023280000000000002328#128 = .legal (.edge 9000 9000) := by decide
/-- V20: the largest operands are legal. -/
theorem test_decode_edge_largest :
    decode 0x40000000FFFFFFFFFFFFFFFFFFFFFFFF#128 = .legal (.edge 0xFFFFFFFF 0xFFFFFFFFFFFFFFFF) := by decide
/-- `OP` 10 (30_encoding.md R81). -/
theorem test_decode_deliver : decode (0b10#2 ++ 0#126) = .legal .deliver := by decide
/-- `OP` 11 (30_encoding.md R81). -/
theorem test_decode_reset : decode (0b11#2 ++ 0#126) = .legal .reset := by decide
/-- V15 to V19. -/
theorem test_decode_illegal :
    decode 0x40000001000000000000000000000000#128 = .illegal .edgeReserved ∧
      decode 0x60000000000000000000000000000000#128 = .illegal .edgeReserved ∧
      decode 0x00000000000000000000000000000001#128 = .illegal .nopOperand ∧
      decode 0x80000000000000000000000000000001#128 = .illegal .deliverOperand ∧
      decode 0xC0000000000000010000000000000000#128 = .illegal .resetOperand := by decide
/-- The rows of the opcode map do not overlap (30_encoding.md R81). -/
theorem test_opcode_rows_disjoint :
    opcodeTable.Pairwise fun r q => r.matchBits &&& q.maskBits &&& r.maskBits ≠ q.matchBits &&& q.maskBits &&& r.maskBits := by
  decide
theorem test_decodeTableWord :
    decodeTableWord 128 0x40000000000023280000000000002328 = some (.edge 9000 9000) ∧
      decodeTableWord 128 0xC0000000000000000000000000000000 = some .reset ∧
      decodeTableWord 128 0x00000000000000000000000000000001 = none := by decide
/-- A presented word is the first to run after reset (V22, V1a, V12b, V23). -/
theorem test_withFetchWord :
    ((nextOf (step (State.reset.withFetchWord 128 0x00000000000000000000000000000000))).map fun t => t.trace) =
        some [⟨.idle, 0⟩] ∧
      ((nextOf (step (State.reset.withFetchWord 128 0x40000000000003E800000000000003E8))).map fun t => t.trace) =
        some [⟨.primed, 0⟩] ∧
      ((nextOf (step (State.reset.withFetchWord 128 0x80000000000000000000000000000000))).map fun t => t.trace) =
        some [⟨.idle, 0⟩] ∧
      ((nextOf (step (State.reset.withFetchWord 128 0xC0000000000000000000000000000000))).map fun t => t.trace) =
        some [⟨.reset, 0⟩] := by decide

/-! ## One step -/

/-- V2b: the interval wraps (0x2228 + 0x100 = 9000). -/
theorem test_edge_across_the_wrap :
    (nextOf (exec (.edge 0x2228 6) { primed true with prevTs := 0xFFFFFF00 })).map (fun t => t.regs) =
      some ⟨.shMark, 0, 0, 0x2228, true, false, 0, false, false, 0⟩ := by decide
/-- V5: `ACCEPTED 1`. -/
theorem test_edge_accepts_one :
    nextOf (exec (.edge 2687 777) lastSpace) =
      some { primed true with
        prevTs := 0xA7F, lastAcc := 777, lastValid := true, outValid := true, outSym := 1, trace := [⟨.accepted, 1⟩] } := by
  decide
/-- V12a: `DELIVERED 1`; `OUT_SYM` is not cleared. -/
theorem test_deliver_hands_over :
    nextOf (exec .deliver pendingOne) =
      some { pendingOne with outValid := false, delivered := [1], trace := [⟨.delivered, 1⟩] } := by decide
/-- V12b: `IDLE`. -/
theorem test_deliver_with_nothing_pending : nextOf (exec .deliver idle) = some { idle with trace := [⟨.idle, 0⟩] } := by decide
/-- V13: NOP leaves a half-read frame as it is. -/
theorem test_nop_keeps_registers :
    nextOf (exec .nop { primed true with dstate := .rbSpace, bitcnt := 7, acc := 0x0055, prevTs := 123 }) =
      some { primed true with dstate := .rbSpace, bitcnt := 7, acc := 0x0055, prevTs := 123, trace := [⟨.idle, 0⟩] } := by decide
/-- V14: the pending `FIVE` is dropped, never delivered. -/
theorem test_reset_drops_pending :
    nextOf (exec .reset { lastSpaceLater with
        outValid := true, outSym := 5, bitcnt := 9, acc := 0x01FF, prevTs := 77, pol := true, lastAcc := 42 }) =
      some { idle with trace := [⟨.reset, 0⟩] } := by decide
/-- RESET does not clear `FAULT` (60_exceptions.md R230, 70_reset_and_hazards.md R260), and the machine stays stuck. -/
theorem test_stuck_after_fault : nextOf (step (loaded [.reset] faulted)) = none := by decide

/-! ## Assembler -/

/-- 30_encoding.md R82: a line of text, with a hexadecimal number and a comment. -/
theorem test_parse_edge : parseLine "EDGE 0x3E8, 1000 ; first".toList = .ok [.edge 1000 1000] := by decide
/-- 95_test_vectors.md section 2.11: HDR after `.time 0, 0`. -/
theorem test_asm_hdr :
    asmLine .hdr ⟨some (0, 0), true⟩ = .ok (⟨some (13500, 13500), true⟩, [.edge 9000 9000, .edge 13500 13500]) := by decide

/-! ## Witnesses -/

theorem witness_WordsDecodeByTheOpcodeMap :
    decode 0x40000000FFFFFFFFFFFFFFFFFFFFFFFF#128 = .legal (.edge 0xFFFFFFFF 0xFFFFFFFFFFFFFFFF) := by decide

theorem witness_EncodeDecodeAgree :
    ∃ (w : TxWord) (i : Instr), decode w = .legal i ∧ i = .edge 0xFFFFFFFF 0xFFFFFFFFFFFFFFFF :=
  ⟨0x40000000FFFFFFFFFFFFFFFFFFFFFFFF#128, _, by decide, rfl⟩

theorem witness_StepRunsTheDecodedTransaction :
    ∃ (s : State) (w : TxWord) (rest : List TxWord) (i : Instr), s.Running ∧ s.input = w :: rest ∧ decode w = .legal i :=
  ⟨loaded [.edge 1000 1000, .nop] idle, encode (.edge 1000 1000), [encode .nop], .edge 1000 1000, by decide⟩

theorem witness_WaitingKeepsAllState : idle.Running ∧ idle.input = [] := by decide

theorem witness_IllFormedConfigHasNoRun : (State.construct { testCfg with tolPct := 100 }).cfg.wf = false := by decide

theorem witness_IllegalWordIsRefusedThenStuck :
    ∃ (s : State) (w : TxWord) (rest : List TxWord), s.Running ∧ s.input = w :: rest ∧ ∀ i, encode i ≠ w := by
  refine ⟨{ idle with input := [0x40000001000000000000000000000000#128] }, _, [], by decide, rfl, fun i h => ?_⟩
  have hr : rsvField (encode i) = 0 := by
    cases i with
    | nop => exact Laws.EncodedFields.nop.1
    | edge ts now => exact (Laws.EncodedFields.edge ts now).1
    | deliver => exact Laws.EncodedFields.deliver.1
    | reset => exact Laws.EncodedFields.reset.1
  rw [h] at hr
  exact absurd hr (by decide)

theorem witness_RecordedFaultsAreSticky :
    (faulted.cfg.wf = true ∧ faulted.fault ≠ 0) ∧ ∃ t, exec .reset faulted = .next t :=
  ⟨by decide, _, next_after (by decide)⟩

theorem witness_ConfigIsNeverWritten : ∃ t, step (loaded [.reset] pendingOne) = .next t := ⟨_, next_after (by decide)⟩

/-- One witness a clause: NOP, RESET, DELIVER, EDGE, an illegal word. -/
theorem witness_EachTransactionRecordsOneDisposition :
    (∀ i ∈ [Instr.nop, .reset, .deliver, .edge 1000 1000],
      ∃ t, step (loaded [i] idle) = .next t ∧ (loaded [i] idle).input = [encode i] ∧ decode (encode i) = .legal i) ∧
    ∃ t, step { idle with input := [1#128] } = .next t ∧ decode 1#128 = .illegal .nopOperand := by
  refine ⟨fun i hi => ⟨after (step (loaded [i] idle)), ?_⟩, _, next_after (by decide), by decide⟩
  simp only [List.mem_cons, List.not_mem_nil, or_false] at hi
  rcases hi with rfl | rfl | rfl | rfl <;> exact ⟨next_after (by decide), by decide⟩

theorem witness_ReferenceBandTable : ∀ p ∈ [0, 25, 100], p ≤ 100 := by decide

theorem witness_SeekingHeaderTransitions : testCfg.wf = true := by decide

/-- The role test; a 0 and a 1 at the ends of their bands, before the last bit and on it; a space in neither band; a mark. -/
theorem witness_ReadingBitsTransitions :
    roleOk testCfg false false = true ∧ roleOk testCfg true false = false ∧
    ([422, 702].all fun iv => inBand testCfg iv .zeroSpace) = true ∧
    ([1266, 2108].all fun iv => !inBand testCfg iv .zeroSpace && inBand testCfg iv .oneSpace) = true ∧
    ([421, 703, 1265, 2109].all fun iv => !inBand testCfg iv .zeroSpace && !inBand testCfg iv .oneSpace) = true ∧
    (14#4).toNat + 1 < 16 ∧ (15#4).toNat = 15 ∧ testCfg.wf = true := by decide

theorem witness_CompletionChecksTheComplement : (complete 0xF30C).out = .symbol ∧ 0 < 16 ∧ 15 < 16 := by decide

theorem witness_TerminalOutcomesFoldBack :
    (pdStep testCfg .shMark 0 0 2250 false).out ≠ .noSymbol ∧
    ¬ (roleOk testCfg true true = true ∧ inBand testCfg 6749 .hdrMark = true) ∧
    inBand Config.reference 422 .bitMark = true ∧ inBand Config.reference 702 .bitMark = true := by decide

/-- The last bit a 1, and a 0. -/
theorem witness_FailedCheckNeverGivesSymbol :
    (pdStep testCfg .rbSpace 15 0x730C 1687 false).out = .symbol ∧ (pdStep testCfg .rbSpace 15 0x00FF 562 false).out = .symbol := by
  decide

theorem witness_ResynchronisesAfterAFailedInterval : (pdStep testCfg .rbSpace 7 0x55 703 false).out = .errTiming := by decide

/-- The nominal intervals of a frame for code 0x0C. -/
def nominalIntervals : List Timestamp := (frameSlots 0x0C 0xF3).map fun slot => testCfg.nominal slot.2

/-- Those intervals with their roles. -/
def nominalRun : List (Bool × Timestamp) := (frameSlots 0x0C 0xF3).map fun slot => (slot.1, testCfg.nominal slot.2)

theorem nominal_inBands :
    inBands testCfg (frameSlots 0x0C (~~~0x0C)) nominalIntervals ∧
      inBands Config.reference (frameSlots 0x0C 0xF3) nominalIntervals := by
  have h : (~~~(0x0C : Code)) = 0xF3 := by decide
  rw [h]
  unfold inBands nominalIntervals
  rw [List.forall₂_map_right_iff, List.forall₂_map_right_iff]
  exact ⟨List.forall₂_same.2 (by decide), List.forall₂_same.2 (by decide)⟩

theorem witness_FrameGivesItsSymbolOnInterval34 :
    (testCfg.wf = true ∧ inBands testCfg (frameSlots 0x0C (~~~0x0C)) nominalIntervals) ∧
    ∃ (before : List PdResult) (last : PdResult),
      pdRun testCfg .shIdle 0 0 nominalRun = before ++ [last] ∧ (∀ r ∈ before, r.out = .noSymbol) ∧ last.out = .symbol :=
  ⟨⟨by decide, nominal_inBands.1⟩, (pdRun testCfg .shIdle 0 0 nominalRun).take 33, ⟨.symbol, 0x0C, .shIdle, 0, 0⟩,
    by decide, by decide, rfl⟩

theorem witness_InvertedPolarityDecodesNothing :
    ∀ p ∈ ([(false, 9000), (true, 4500), (false, 562), (true, 1687), (false, 702)] : List (Bool × Timestamp)), p.1 = false →
      inBand Config.reference p.2 .hdrMark = true ∨ inBand Config.reference p.2 .bitMark = true := by
  simp only [List.forall_mem_cons]
  refine ⟨?_, ?_, ?_, ?_, ?_, by simp⟩ <;> decide

/-- Idle spaces at the ends of the band; a frame at the nominal durations, under any labelling. -/
theorem witness_UncheckedPolarityTakesIdleForHeader :
    (({ testCfg with polCheck := false } : Config).polCheck = false ∧
      6750 ≤ (6750#32).toNat ∧ (6750#32).toNat ≤ 11250 ∧ 6750 ≤ (11250#32).toNat ∧ (11250#32).toNat ≤ 11250) ∧
    inBands Config.reference (frameSlots 0x0C 0xF3) nominalIntervals ∧ (List.replicate 34 true).length = 34 :=
  ⟨by decide, nominal_inBands.2, by decide⟩

theorem witness_CutOffFrameIsDiscardedByTheGap :
    testCfg.polCheck = true ∧
    ([703, 2109, 40000].all fun gap => !inBand testCfg gap .zeroSpace && !inBand testCfg gap .oneSpace) = true := by decide

theorem witness_MapIsTheCommandTable :
    testCfg.wf = true ∧ (0x0C, 1) ∈ testCfg.mapTable.pairs ∧ (0x44, 11) ∈ testCfg.mapTable.pairs ∧
    ∀ sym : SymCode, (0x00, sym) ∉ testCfg.mapTable.pairs := by decide

theorem witness_CodeTwelveIsOne : testCfg.wf = true ∧ mapCode testCfg 0x0C = some 1 := by decide

/-- One witness a clause, at the ends of the window. -/
theorem witness_GateAcceptsByTheQuietWindow :
    lastSpace.lastValid = false ∧ lastSpaceLater.lastValid = true ∧
    (999999#64).toNat < lastSpaceLater.lastAcc.toNat ∧
    (lastSpaceLater.lastAcc.toNat ≤ (1300000#64).toNat ∧
      lastSpaceLater.cfg.qw.toNat ≤ (1300000#64).toNat - lastSpaceLater.lastAcc.toNat) ∧
    (lastSpaceLater.lastAcc.toNat ≤ (1299999#64).toNat ∧
      (1299999#64).toNat - lastSpaceLater.lastAcc.toNat < lastSpaceLater.cfg.qw.toNat) ∧
    lastSpaceLater.cfg.qw ≠ 0 ∧
    ({ lastSpaceLater with cfg := { testCfg with qw := 0 } } : State).cfg.qw = 0 ∧
    lastSpaceLater.cfg.qw = 300000 ∧ lastSpaceLater.lastAcc = 1000000 := by decide

theorem witness_GateIsSymbolAgnostic :
    ∃ s s' : State, s ≠ s' ∧ s.lastAcc = s'.lastAcc ∧ s.lastValid = s'.lastValid ∧ s.cfg.qw = s'.cfg.qw :=
  ⟨lastSpaceLater, { lastSpaceLater with outSym := 5 }, by decide⟩

/-- One witness a clause: the second call one tick inside the window, and at its end; the first call rejected. -/
theorem witness_TwoConsecutiveGateCalls :
    (∃ s1, accept 1000000 1 idle = (.accepted, s1)) ∧
    (1299999#64).toNat - (1000000#64).toNat < idle.cfg.qw.toNat ∧
    idle.cfg.qw.toNat ≤ (1300000#64).toNat - (1000000#64).toNat ∧
    (∃ s1, accept 1299999 1 lastSpaceLater = (.debounced, s1)) :=
  ⟨⟨(accept 1000000 1 idle).2, by decide⟩, by decide, by decide, ⟨lastSpaceLater, by decide⟩⟩

theorem witness_AcceptancesAreAQuietWindowApart :
    ∃ s t : State, step s = .next t ∧ s.lastValid = true ∧ t.lastValid = true ∧ t.lastAcc ≠ s.lastAcc :=
  ⟨loaded [.edge 2687 1300000] lastSpaceLater, _, next_after (by decide), by decide, by decide, by decide⟩

theorem witness_GateRegistersMoveOnlyOnAcceptance :
    ∀ i ∈ [Instr.edge 2687 1300000, .reset],
      ∃ t, step (loaded [i] lastSpaceLater) = .next t ∧
        ¬ (t.lastAcc = (loaded [i] lastSpaceLater).lastAcc ∧ t.lastValid = (loaded [i] lastSpaceLater).lastValid) := by
  intro i hi
  refine ⟨after (step (loaded [i] lastSpaceLater)), ?_⟩
  simp only [List.mem_cons, List.not_mem_nil, or_false] at hi
  rcases hi with rfl | rfl <;> exact ⟨next_after (by decide), by decide⟩

theorem witness_LostEdgeWritesNoRegister : pendingOne.outValid = true := by decide

theorem witness_FirstEdgePrimes :
    idle.outValid = false ∧ idle.prevValid = false ∧ testCfg.polCheck = true ∧ testCfg.polInit = false := by decide

/-- One witness an outcome: V1b, V11, V3 and V10. -/
theorem witness_EdgeWithoutSymbolGoesOn :
    (∀ s ∈ [primed true, primed false], s.outValid = false ∧ s.prevValid = true) ∧
    (pdStep testCfg .shIdle 0 0 (10000 - 1000) true).out = .noSymbol ∧
    (pdStep testCfg .shMark 0 0 (3250 - 1000) false).out = .repeatCode ∧
    (pdStep testCfg .shIdle 0 0 (1000 - 1000) true).out = .errTiming ∧
    (pdStep testCfg .rbSpace 15 0x720C (2687 - 1000) false).out = .errChecksum := by decide

/-- V9. -/
theorem witness_UnmappedCodeIsDropped :
    ∃ (s : State) (r : PdResult), s.outValid = false ∧ s.prevValid = true ∧
      r = pdStep s.cfg s.dstate s.bitcnt s.acc (2687 - s.prevTs) s.pol ∧ r.out = .symbol ∧ mapCode s.cfg r.code = none :=
  ⟨{ lastSpace with acc := 0x7F00 }, ⟨.symbol, 0x00, .shIdle, 0, 0⟩, by decide⟩

/-- V5 and V7: with no acceptance before, and at the end of the window. -/
theorem witness_AcceptedSymbolWaitsForTheSink :
    ∀ s ∈ [lastSpace, lastSpaceLater],
      s.outValid = false ∧ s.prevValid = true ∧
      (⟨.symbol, 0x0C, .shIdle, 0, 0⟩ : PdResult) = pdStep s.cfg s.dstate s.bitcnt s.acc (2687 - s.prevTs) s.pol ∧
      mapCode s.cfg 0x0C = some 1 ∧
      (s.lastValid = false ∨ s.lastAcc.toNat ≤ (1300000#64).toNat ∧
        s.cfg.qw.toNat ≤ (1300000#64).toNat - s.lastAcc.toNat) := by decide

/-- V6, and one tick before the end of the window. -/
theorem witness_DebouncedSymbolIsDropped :
    ∃ s : State, s.outValid = false ∧ s.prevValid = true ∧
      (⟨.symbol, 0x0C, .shIdle, 0, 0⟩ : PdResult) = pdStep s.cfg s.dstate s.bitcnt s.acc (2687 - s.prevTs) s.pol ∧
      mapCode s.cfg 0x0C = some 1 ∧ s.lastValid = true ∧
      ([1000000, 1050000, 1299999].all fun now : Instant =>
        decide (s.lastAcc.toNat ≤ now.toNat ∧ now.toNat - s.lastAcc.toNat < s.cfg.qw.toNat)) = true :=
  ⟨lastSpaceLater, by decide⟩

/-- V8. -/
theorem witness_TimeRegressionIsAModelFault :
    ∃ s t : State, s.Running ∧ s.outValid = false ∧ s.prevValid = true ∧
      (⟨.symbol, 0x0C, .shIdle, 0, 0⟩ : PdResult) = pdStep s.cfg s.dstate s.bitcnt s.acc (2687 - s.prevTs) s.pol ∧
      mapCode s.cfg 0x0C = some 1 ∧ s.lastValid = true ∧ (999999#64).toNat < s.lastAcc.toNat ∧
      t = { s with
        pol := !s.pol, prevTs := 2687, dstate := .shIdle, bitcnt := 0, acc := 0, fault := 0b01,
        trace := s.trace ++ [⟨.fault, 1⟩] } ∧
      nextOf (exec (.edge 2687 999999) s) = some t :=
  ⟨lastSpaceLater, _, by decide, by decide, by decide, by decide, by decide, by decide, by decide, rfl, by decide⟩

/-- A consumed edge after the first, the first edge, and a lost one. -/
theorem witness_PolarityTogglesOnConsumedEdges :
    ∀ s ∈ [lastSpace, idle, pendingOne], (nextOf (exec (.edge 2687 777) s)).isSome = true := by decide

theorem witness_DecoderRegistersFollowPdStep :
    (lastSpace.outValid = false ∧ lastSpace.prevValid = true) ∧ pendingOne.outValid = true ∧ idle.prevValid = false ∧
    (∀ s ∈ [lastSpace, idle, pendingOne], (nextOf (exec (.edge 2687 777) s)).isSome = true) ∧
    (∀ i ∈ [Instr.nop, .deliver], (nextOf (exec i lastSpace)).isSome = true) := by decide

theorem witness_EdgeFrame : ∃ t, exec (.edge 2687 777) lastSpace = .next t := ⟨_, next_after (by decide)⟩

/-- One witness a clause: LOST, PRIMED, ErrTiming before the check, UNMAPPED, TIME_REGRESSION. -/
theorem witness_OutcomePriorityOfOneEdge :
    (nextOf (exec (.edge 2687 777) pendingOne)).map (fun t => t.trace) = some [⟨.lost, 0⟩] ∧
    (nextOf (exec (.edge 2687 777) idle)).map (fun t => t.trace) = some [⟨.primed, 0⟩] ∧
    (nextOf (exec (.edge 1703 777) lastSpace)).map (fun t => t.trace) = some [⟨.errTiming, 0⟩] ∧
    (nextOf (exec (.edge 2687 777) { lastSpace with acc := 0x7F00 })).map (fun t => t.trace) = some [⟨.unmapped, 0⟩] ∧
    (nextOf (exec (.edge 2687 999999) lastSpaceLater)).map (fun t => t.trace) = some [⟨.fault, 1⟩] := by decide

/-- Two edges, one before the wrap of the timestamps and one after it. -/
def wrapEdges : List (Timestamp × Instant) := [(0xFFFFFF00, 5), (0x2228, 6)]

/-- Both ways for the old `PREV_TS`: shifted too, and anything at all before the first edge. -/
theorem witness_ShiftedTimestampsDecodeAlike :
    ∃ (s t : State), s.Running ∧ s.input = (wrapEdges.map fun e => encode (.edge e.1 e.2)) ++ [] ∧
      (0x77 : Timestamp) = s.prevTs + 0x77 ∧ (s.prevValid = false ∧ s.outValid = false ∧ 0 < 2) ∧ 2 ≤ wrapEdges.length ∧
      run 2 s = .next t :=
  ⟨loaded [.edge 0xFFFFFF00 5, .edge 0x2228 6] idle, _, by decide, by decide, by decide, by decide, by decide,
    next_after (by decide)⟩

theorem witness_UnreadySinkLosesEveryEdge :
    (loaded [.edge 0xFFFFFF00 5, .edge 0x2228 6] pendingOne).Running ∧
    (loaded [.edge 0xFFFFFF00 5, .edge 0x2228 6] pendingOne).outValid = true ∧
    (loaded [.edge 0xFFFFFF00 5, .edge 0x2228 6] pendingOne).input =
      (wrapEdges.map fun e => encode (.edge e.1 e.2)) ++ [] := by decide

theorem witness_DeliverHandsOverThePendingSymbol :
    pendingOne.outValid = true ∧ idle.outValid = false ∧
    ∃ t u : State, exec .deliver pendingOne = .next t ∧ exec .deliver t = .next u :=
  ⟨by decide, by decide, _, _, next_after (by decide), next_after (by decide)⟩

theorem witness_OnlyDeliverHandsOverSymbols :
    ∃ t, step (loaded [.deliver] pendingOne) = .next t ∧ t.delivered ≠ (loaded [.deliver] pendingOne).delivered :=
  ⟨_, next_after (by decide), by decide⟩

theorem witness_NopsLeaveTheRegistersUnchanged :
    (loaded [.nop, .nop, .deliver] lastSpace).Running ∧
    (loaded [.nop, .nop, .deliver] lastSpace).input = List.replicate 2 (encode .nop) ++ [encode .deliver] := by decide

theorem witness_ResetIsConstruction : ∃ t u : State, exec .reset pendingOne = .next t ∧ exec .reset t = .next u :=
  ⟨_, _, next_after (by decide), next_after (by decide)⟩

theorem witness_RegistersAfterReset : ∃ t, exec .reset pendingOne = .next t := ⟨_, next_after (by decide)⟩

theorem witness_RunsStartEmpty : pendingOne.cfg = testCfg ∧ ∃ t, exec .reset pendingOne = .next t :=
  ⟨by decide, _, next_after (by decide)⟩

theorem witness_StepKeepsRegisterInvariants :
    ∃ t, (loaded [.edge 2687 777] lastSpace).RegistersOk ∧ step (loaded [.edge 2687 777] lastSpace) = .next t :=
  ⟨_, by decide, next_after (by decide)⟩

theorem witness_ReservedSymbolsAreNeverDelivered :
    ∃ t, (loaded [.deliver] pendingOne).RegistersOk ∧ (∀ sym ∈ (loaded [.deliver] pendingOne).delivered, sym.toNat ≤ 11) ∧
      step (loaded [.deliver] pendingOne) = .next t :=
  ⟨_, by decide, by decide, next_after (by decide)⟩

theorem witness_StepKeepsDeliveriesMatchTrace :
    ∃ t, ({ loaded [.deliver] pendingOne with trace := [⟨.accepted, 1⟩] } : State).DeliveriesMatchTrace ∧
      step { loaded [.deliver] pendingOne with trace := [⟨.accepted, 1⟩] } = .next t :=
  ⟨_, by decide, next_after (by decide)⟩

/-- The stimulus starts at the very `now` of the last acceptance. -/
theorem witness_ContractStimulusNeverFaults :
    (loaded [.edge 2687 1000000, .edge 3000 1000000, .reset, .edge 5 0] lastSpaceLater).WithinContract :=
  ⟨by decide, 1000000, by decide, by decide⟩

/-- An idle decoder whose polarity is in step, and a key press of code 0x0C to come. -/
def keyPress : State :=
  { primed true with
    input := (edgesFrom 1000 (nominalIntervals.zip (List.replicate 33 5 ++ [777]))).map encode ++ encode .deliver :: [] }

/-- With the polarity in step, and in the other polarity with `POL_CHECK == 0` (the last clause). -/
theorem witness_KeyPressDeliversItsSymbol :
    keyPress.Running ∧ keyPress.DecoderIdle ∧ keyPress.prevValid = true ∧ keyPress.outValid = false ∧ keyPress.pol = true ∧
    inBands keyPress.cfg (frameSlots 0x0C (~~~0x0C)) nominalIntervals ∧
    (0x0C, 1) ∈ keyPress.cfg.mapTable.pairs ∧ (List.replicate 33 (5 : Instant)).length = 33 ∧ keyPress.lastValid = false ∧
    keyPress.input =
      (edgesFrom keyPress.prevTs (nominalIntervals.zip (List.replicate 33 5 ++ [777]))).map encode ++ encode .deliver :: [] ∧
    (({ keyPress with pol := false, cfg := { testCfg with polCheck := false } } : State).Running ∧
      ({ testCfg with polCheck := false } : Config).polCheck = false ∧
      inBands { testCfg with polCheck := false } (frameSlots 0x0C (~~~0x0C)) nominalIntervals) :=
  ⟨by decide, by decide, by decide, by decide, by decide, nominal_inBands.1, by decide, by decide, by decide, rfl,
    by decide, by decide, nominal_inBands.1⟩

/-- A cycle for each clause: `rst`; a symbol taken with an edge, and without; an edge alone, the sink unready or nothing
pending. -/
theorem witness_PortCyclesAreSerialised :
    pendingOne.Running ∧ pendingOne.input = [] ∧ idle.Running ∧ idle.input = [] ∧
    (⟨true, 5, 6, true, true⟩ : PortInputs).rst = true ∧
    ((⟨true, 5, 6, true, false⟩ : PortInputs).rst = false ∧ pendingOne.outValid = true) ∧
    (⟨false, 5, 6, true, false⟩ : PortInputs).edgeValid = false ∧
    ((⟨true, 5, 6, false, false⟩ : PortInputs).symReady = false ∧ idle.outValid = false) := by decide

/-- The earliest and the latest running `n`. -/
theorem witness_AssembledFrameIsTheOnAirFrame :
    (0 : Instant).toNat + 40484 < 2 ^ 64 ∧ (0xFFFFFFFFFFFF61DB : Instant).toNat + 40484 < 2 ^ 64 ∧
      ∃ (ivs : List Timestamp) (nows : List Instant),
        ivs = ((frameSlots 0x0C (~~~0x0C)).map fun slot => Config.reference.nominal slot.2) ∧
        nows = ((List.range 34).map fun k => (0 : Instant) + BitVec.ofNat 64 (((ivs.take (k + 1)).map BitVec.toNat).sum)) :=
  ⟨by decide, by decide, _, _, rfl, rfl⟩

/-- The largest operands that fit, and the smallest that do not. -/
theorem witness_AssemblerRejectsWideOperands :
    (2 ^ 32 - 1 < 2 ^ 32 ∧ 2 ^ 64 - 1 < 2 ^ 64) ∧ ¬ (2 ^ 32 < 2 ^ 32 ∧ 0 < 2 ^ 64) ∧ ¬ (0 < 2 ^ 32 ∧ 2 ^ 64 < 2 ^ 64) := by decide

end Sys2Proof.Tests
end

section
/-! The rounding of the tolerance bands (00_scope.md R9). -/

namespace Sys2Proof.Machine

/-- `LO` is the ceiling: the least natural number whose hundredfold reaches the product. -/
theorem bandLo_bounds (n p : Nat) : n * (100 - p) ≤ 100 * bandLo n p ∧ 100 * bandLo n p < n * (100 - p) + 100 := by
  unfold bandLo
  constructor <;> omega

/-- `HI` is the floor: the greatest natural number whose hundredfold stays within the product. -/
theorem bandHi_bounds (n p : Nat) : 100 * bandHi n p ≤ n * (100 + p) ∧ n * (100 + p) < 100 * bandHi n p + 100 :=
  ⟨Nat.mul_div_le _ _, Nat.lt_mul_div_succ _ (by decide)⟩

/-- Settles O13: the ends are the ceiling and the floor, and the table is `band` computed at the reference values. -/
theorem referenceBandTable : Obligations.ReferenceBandTable := by
  refine ⟨fun n p _ => ?_, fun _ _ => rfl, by decide, by decide, by decide, by decide, by decide, by decide⟩
  obtain ⟨hLo, hLo'⟩ := bandLo_bounds n p
  exact ⟨hLo, hLo', bandHi_bounds n p⟩

end Sys2Proof.Machine
end

section
/-! The register invariants of 10_state.md R36. (a) and (b) speak of PulseDecoder's registers alone, so they are kept by
PD_STEP; (c) is the width of `BITCNT`; (d) is a fact about the command table. -/

namespace Sys2Proof.Machine

/-- The part of R36 that binds PulseDecoder's registers: (a) and (b). -/
def DecoderOk (d : DState) (n : BitVec 4) (a : BitVec 16) : Prop :=
  (d = .shIdle ∨ d = .shMark → n = 0 ∧ a = 0) ∧ a >>> n.toNat = 0

theorem registersOk_iff {s : State} :
    s.RegistersOk ↔ DecoderOk s.dstate s.bitcnt s.acc ∧ (s.outValid = true → s.outSym.toNat ≤ 11) := by
  have hn : s.bitcnt.toNat ≤ 15 := Nat.le_of_lt_succ s.bitcnt.isLt
  simp only [State.RegistersOk, DecoderOk, hn, true_and, and_assoc]

theorem decoderOk_zero (d : DState) : DecoderOk d 0 0 := ⟨fun _ => ⟨rfl, rfl⟩, rfl⟩

/-- While a frame's bits are read, only (b) binds `BITCNT` and `ACC`. -/
theorem decoderOk_reading {d : DState} (hd : d = .rbMark ∨ d = .rbSpace) {n : BitVec 4} {a : BitVec 16} :
    DecoderOk d n a ↔ a >>> n.toNat = 0 := by
  rcases hd with rfl | rfl <;> simp [DecoderOk]

/-- The data bit goes in at position `BITCNT`, so none lies at `BITCNT + 1` or above. -/
theorem accWithBit_shiftRight_succ {n : BitVec 4} {a : BitVec 16} (hn : n.toNat + 1 < 16) (ha : a >>> n.toNat = 0)
    (b : Bool) : accWithBit n a b >>> (n + 1).toNat = 0 := by
  have hsucc : (n + 1).toNat = n.toNat + 1 := by bv_omega
  apply BitVec.eq_of_getLsbD_eq
  intro i _
  have hold : a.getLsbD (n.toNat + (i + 1)) = false := by
    rw [← BitVec.getLsbD_ushiftRight, ha]; exact BitVec.getLsbD_zero
  rw [hsucc, BitVec.getLsbD_ushiftRight, show n.toNat + 1 + i = n.toNat + (i + 1) by omega]
  simp [accWithBit, hold]

/-- PD_STEP keeps (a) and (b): it zeroes `BITCNT` and `ACC`, leaves them to read on, or puts in one data bit. -/
theorem pdStep_decoderOk {d : DState} {n : BitVec 4} {a : BitVec 16} (h : DecoderOk d n a) (cfg : Config) (iv : Timestamp)
    (isMark : Bool) :
    DecoderOk (pdStep cfg d n a iv isMark).dstate (pdStep cfg d n a iv isMark).bitcnt
      (pdStep cfg d n a iv isMark).acc := by
  obtain ⟨-, ha⟩ := h
  rcases pdStep_shape cfg d n a iv isMark with (e | e | ⟨-, e⟩ | ⟨-, hn, b, e⟩) | ⟨out, code, -, e⟩ <;> rw [e]
  · exact decoderOk_zero _
  · exact decoderOk_zero _
  · exact (decoderOk_reading (.inr rfl)).2 ha
  · exact (decoderOk_reading (.inl rfl)).2 (accWithBit_shiftRight_succ hn ha b)
  · exact decoderOk_zero _

theorem record_registersOk {s : State} (h : s.RegistersOk) (d : Disposition) (v : BitVec 8) :
    (s.record d v).RegistersOk := h

theorem takeFault_registersOk {s : State} (h : s.RegistersOk) (f : Fault) : (s.takeFault f).RegistersOk := h

theorem afterDecode_registersOk {s : State} (h : s.RegistersOk) (ts : Timestamp) : (s.afterDecode ts).RegistersOk := by
  obtain ⟨hdec, hout⟩ := registersOk_iff.1 h
  exact registersOk_iff.2 ⟨pdStep_decoderOk hdec _ _ _, hout⟩

/-- The writes of an acceptance (42_debounce_gate.md R161, 43_decoder_loop.md R187) keep R36 if the symbol is not reserved. -/
theorem acceptSymbol_registersOk {s : State} (h : s.RegistersOk) (now : Instant) {sym : SymCode} (hsym : sym.toNat ≤ 11) :
    (((s.setLastAcc now).setLastValid.setOutSym sym).setOutValid).RegistersOk :=
  registersOk_iff.2 ⟨(registersOk_iff.1 h).1, fun _ => hsym⟩

/-- EDGE keeps R36: only an acceptance writes `OUT_SYM`, with a symbol of the command table. -/
theorem edgeEffect_registersOk {s : State} (hc : s.cfg.wf = true) (h : s.RegistersOk) (ts : Timestamp) (now : Instant) :
    (edgeEffect ts now s).RegistersOk := by
  have hdecoded := afterDecode_registersOk h ts
  rcases edgeEffect_cases ts now s with ⟨-, e⟩ | ⟨-, -, e⟩ | ⟨-, -, ⟨-, d, v, -, e⟩ | ⟨-, -, e⟩ |
    ⟨sym, -, hmap, ⟨-, e⟩ | ⟨-, -, -, e⟩ | ⟨-, -, e⟩⟩⟩ <;> rw [e]
  · exact record_registersOk h _ _
  · exact record_registersOk (s := (s.consumeEdge ts).setPrevValid) h _ _
  · exact record_registersOk hdecoded _ _
  · exact record_registersOk hdecoded _ _
  · exact record_registersOk (acceptSymbol_registersOk hdecoded now (mapCode_sym_le hc hmap)) _ _
  · exact record_registersOk hdecoded _ _
  · exact takeFault_registersOk hdecoded _

/-- DELIVER keeps R36: nothing is pending after it. -/
theorem deliverEffect_registersOk {s : State} (h : s.RegistersOk) : (deliverEffect s).RegistersOk := by
  rcases deliverEffect_cases s with ⟨-, e⟩ | ⟨-, e⟩ <;> rw [e]
  · exact registersOk_iff.2 ⟨(registersOk_iff.1 h).1, by simp⟩
  · exact record_registersOk h _ _

theorem construct_registersOk (cfg : Config) : (State.construct cfg).RegistersOk :=
  registersOk_iff.2 ⟨decoderOk_zero _, by simp [State.construct]⟩

theorem resetRegisters_registersOk (s : State) : s.resetRegisters.RegistersOk :=
  registersOk_iff.2 ⟨decoderOk_zero _, by simp⟩

/-- Every transaction keeps R36. -/
theorem exec_registersOk {i : Instr} {s t : State} (hc : s.cfg.wf = true) (hs : s.RegistersOk) (h : exec i s = .next t) :
    t.RegistersOk := by
  rcases exec_cases h with ⟨-, rfl⟩ | ⟨ts, now, -, rfl⟩ | ⟨-, rfl⟩ | ⟨-, rfl⟩
  · exact record_registersOk hs _ _
  · exact edgeEffect_registersOk hc hs ts now
  · exact deliverEffect_registersOk hs
  · exact record_registersOk (resetRegisters_registersOk s) _ _

/-- Every step keeps R36; waiting changes nothing, and an illegal word writes no register. -/
theorem step_registersOk {s t : State} (hs : s.RegistersOk) (h : step s = .next t) : t.RegistersOk := by
  obtain ⟨hc, -, ⟨-, rfl⟩ | ⟨w, rest, -, ⟨i, -, hexec⟩ | ⟨why, -, rfl⟩⟩⟩ := step_cases h
  · exact hs
  · exact exec_registersOk (s := { s with input := rest }) hc hs hexec
  · exact takeFault_registersOk (s := { s with input := rest }) hs _

/-- Settles O52: construction zeroes what R36 binds, and each transaction keeps it. -/
theorem stepKeepsRegisterInvariants : Obligations.StepKeepsRegisterInvariants :=
  ⟨construct_registersOk, fun _ _ => step_registersOk⟩

end Sys2Proof.Machine
end

section
/-! The decoder against the opcode map (30_encoding.md R72, R73, R81): for each transaction, which fields make a word decode to
it, and so which words. -/

namespace Sys2Proof

/-! ### What the fields of a word make it decode to -/

/-- An operandless row matches one word, the one with its `OP` and every other bit zero. -/
theorem op_and_belowOp_iff {w : TxWord} {op : BitVec 2} :
    opField w = op ∧ belowOp w = 0 ↔ w = wordOfFields op 0 0 0 := by
  rw [belowOp_eq_zero]
  constructor
  · rintro ⟨ho, hr, ht, hn⟩
    rw [word_eq_fields w, ho, hr, ht, hn]
  · rintro rfl
    simp

theorem decode_eq_nop_iff {w : TxWord} : decode w = .legal .nop ↔ opField w = 0b00 ∧ belowOp w = 0 := by
  unfold decode
  split_ifs <;> simp_all

theorem decode_eq_edge_iff {w : TxWord} {ts : Timestamp} {now : Instant} :
    decode w = .legal (.edge ts now) ↔ opField w = 0b01 ∧ rsvField w = 0 ∧ tsField w = ts ∧ nowField w = now := by
  unfold decode
  split_ifs <;> simp_all

theorem decode_eq_deliver_iff {w : TxWord} : decode w = .legal .deliver ↔ opField w = 0b10 ∧ belowOp w = 0 := by
  unfold decode
  split_ifs <;> simp_all

/-- The last row is reached by elimination: a 2-bit `OP` other than 0, 1 and 2 is 3. -/
theorem decode_eq_reset_iff {w : TxWord} : decode w = .legal .reset ↔ opField w = 0b11 ∧ belowOp w = 0 := by
  have hop : ∀ op : BitVec 2, op ≠ 0b00 → op ≠ 0b01 → op ≠ 0b10 → op = 0b11 := by decide
  have := hop (opField w)
  unfold decode
  split_ifs <;> simp_all

/-- A word decodes to a transaction exactly when it is that transaction's word. -/
theorem decode_eq_legal_iff {w : TxWord} {i : Instr} : decode w = .legal i ↔ w = encode i := by
  cases i with
  | nop => exact decode_eq_nop_iff.trans op_and_belowOp_iff
  | edge ts now =>
    rw [decode_eq_edge_iff]
    constructor
    · rintro ⟨ho, hr, rfl, rfl⟩
      exact (word_eq_fields w).trans (by rw [ho, hr]; rfl)
    · rintro rfl
      obtain ⟨hr, ho, ht, hn⟩ := Laws.EncodedFields.edge ts now
      exact ⟨ho, hr, ht, hn⟩
  | deliver => exact decode_eq_deliver_iff.trans op_and_belowOp_iff
  | reset => exact decode_eq_reset_iff.trans op_and_belowOp_iff

@[simp] theorem decode_encode (i : Instr) : decode (encode i) = .legal i := decode_eq_legal_iff.2 rfl

/-! ### The row of EDGE -/

/-- The mask of EDGE's row keeps `OP` and `RSV` and drops the operands. -/
theorem and_edgeMask (w : TxWord) :
    w &&& 0xFFFFFFFF000000000000000000000000#128 = wordOfFields (opField w) (rsvField w) 0 0 := by
  apply word_ext
  · rw [opField_wordOfFields, opField, BitVec.extractLsb'_and]
    exact BitVec.and_allOnes
  · rw [rsvField_wordOfFields, rsvField, BitVec.extractLsb'_and]
    exact BitVec.and_allOnes
  · rw [tsField_wordOfFields, tsField, BitVec.extractLsb'_and]
    exact BitVec.and_zero
  · rw [nowField_wordOfFields, nowField, BitVec.extractLsb'_and]
    exact BitVec.and_zero

theorem matches_edgeRow_iff {w : TxWord} :
    w &&& 0xFFFFFFFF000000000000000000000000#128 = 0x40000000000000000000000000000000#128 ↔
      opField w = 0b01 ∧ rsvField w = 0 := by
  have hmatch : 0x40000000000000000000000000000000#128 = wordOfFields 0b01 0 0 0 := by decide
  rw [and_edgeMask, hmatch]
  constructor
  · intro h
    exact ⟨by simpa using congrArg opField h, by simpa using congrArg rsvField h⟩
  · rintro ⟨ho, hr⟩
    rw [ho, hr]

/-- Settles O2: the operandless rows hold one word each, and EDGE's row is decided by `OP` and `RSV` alone. -/
theorem wordsDecodeByTheOpcodeMap : Obligations.WordsDecodeByTheOpcodeMap := by
  have hnop : encode .nop = 0x00000000000000000000000000000000#128 := by decide
  have hdeliver : encode .deliver = 0x80000000000000000000000000000000#128 := by decide
  have hreset : encode .reset = 0xC0000000000000000000000000000000#128 := by decide
  refine ⟨fun w => ⟨?_, ?_, fun ts now h => ?_, ?_, ?_⟩, by decide⟩
  · rw [decode_eq_legal_iff, hnop]
  · rw [matches_edgeRow_iff, decode_eq_edge_iff]
    exact and_congr_right fun _ => ⟨fun hr => ⟨hr, rfl, rfl⟩, And.left⟩
  · obtain ⟨-, -, hts, hnow⟩ := decode_eq_edge_iff.1 h
    exact ⟨hts.symm, hnow.symm⟩
  · rw [decode_eq_legal_iff, hdeliver]
  · rw [decode_eq_legal_iff, hreset]

end Sys2Proof
end

section
/-! The port cycles (30_encoding.md R71; 60_exceptions.md R228): what a stream of encoded transactions runs, and the EDGE that
follows a DELIVER in one cycle. -/

namespace Sys2Proof.Machine

/-- A running machine whose next word is a transaction's runs that transaction on the rest of the stream. -/
theorem step_of_encode {s : State} (hs : s.Running) {i : Instr} {rest : List TxWord} (hi : s.input = encode i :: rest) :
    step s = exec i { s with input := rest } := by
  rw [step_of_running hs.1 hs.2, runStream, hi]
  simp only [runWord, decode_encode]

theorem portCycle_input {s : State} (hi : s.input = []) (p : PortInputs) :
    (s.portCycle p).input = (serialise p s.outValid).map encode := by
  rw [State.portCycle, hi, List.nil_append]

/-- On an empty stream, a cycle of one transaction is that transaction. -/
theorem run_portCycle_of_single {s : State} (hs : s.Running) (hi : s.input = []) {p : PortInputs} {i : Instr}
    (hp : serialise p s.outValid = [i]) : run 1 (s.portCycle p) = exec i s := by
  have hin : (s.portCycle p).input = [encode i] := by rw [portCycle_input hi, hp]; rfl
  have hback : { s.portCycle p with input := [] } = s := by rw [← hi]; rfl
  rw [run_one, step_of_encode (s := s.portCycle p) hs hin, hback]

/-- Whatever its outcome, an EDGE with nothing pending is consumed: `PREV_TS` and `POL` are written (43_decoder_loop.md R182,
R184), and neither `DELIVERED` nor the stream is. -/
theorem edgeEffect_consumed {s : State} (ho : s.outValid = false) (ts : Timestamp) (now : Instant) :
    (edgeEffect ts now s).prevTs = ts ∧ (edgeEffect ts now s).pol = !s.pol ∧
      (edgeEffect ts now s).delivered = s.delivered ∧ (edgeEffect ts now s).input = s.input := by
  rcases edgeEffect_cases ts now s with ⟨hpend, -⟩ | ⟨-, -, e⟩ | ⟨-, -, ⟨-, d, v, -, e⟩ | ⟨-, -, e⟩ |
    ⟨sym, -, -, ⟨-, e⟩ | ⟨-, -, -, e⟩ | ⟨-, -, e⟩⟩⟩
  · exact absurd (ho.symm.trans hpend) (by decide)
  all_goals rw [e]; simp

/-- The step of a DELIVER with a symbol pending: EventSink takes it, and nothing is pending after. -/
theorem step_deliver_of_pending {s : State} (hs : s.Running) (ho : s.outValid = true) {rest : List TxWord}
    (hi : s.input = encode .deliver :: rest) :
    ∃ u, step s = .next u ∧ u.Running ∧ u.outValid = false ∧ u.input = rest ∧
      u.delivered = s.delivered ++ [s.outSym] ∧ u.pol = s.pol := by
  refine ⟨_, step_of_encode hs hi, ?_⟩
  rcases deliverEffect_cases { s with input := rest } with ⟨-, e⟩ | ⟨hno, -⟩
  · rw [e]
    exact ⟨hs, rfl, rfl, rfl, rfl⟩
  · exact absurd (ho.symm.trans hno) (by decide)

/-- A DELIVER of a pending symbol and an EDGE behind it: the symbol is delivered, and the EDGE finds nothing pending. -/
theorem run_deliver_edge {s : State} (hs : s.Running) (ho : s.outValid = true) {ts : Timestamp} {now : Instant}
    (hi : s.input = [encode .deliver, encode (.edge ts now)]) :
    ∃ t, run 2 s = .next t ∧ t.input = [] ∧ t.delivered = s.delivered ++ [s.outSym] ∧ t.prevTs = ts ∧ t.pol = !s.pol := by
  obtain ⟨u, hdeliver, hu, huo, hui, hud, hup⟩ := step_deliver_of_pending hs ho hi
  obtain ⟨hts, hpol, hdel, hin⟩ := edgeEffect_consumed (s := { u with input := [] }) huo ts now
  refine ⟨edgeEffect ts now { u with input := [] }, ?_, hin, hdel.trans hud, hts, hpol.trans (congrArg _ hup)⟩
  rw [run_of_next hdeliver, run_one]
  exact step_of_encode hu hui

/-- Settles O58: RESET wins, a DELIVER needs a pending symbol and goes before the EDGE, and else the EDGE is alone. -/
theorem portCyclesAreSerialised : Obligations.PortCyclesAreSerialised := by
  refine fun p s hs hi => ⟨rfl, fun hr => ?_, fun hr hy ho he => ?_, fun hr hy ho he => ?_, fun hr hno he => ?_⟩
  · exact run_portCycle_of_single hs hi (by simp [serialise, hr])
  · have hin : (s.portCycle p).input = [encode .deliver, encode (.edge p.edgeTs p.now)] := by
      simp [portCycle_input hi, serialise, edgeRequest, hr, hy, ho, he]
    exact run_deliver_edge (s := s.portCycle p) hs ho hin
  · exact run_portCycle_of_single hs hi (by simp [serialise, edgeRequest, hr, hy, ho, he])
  · have hnone : (p.symReady && s.outValid) = false := Bool.and_eq_false_iff.2 hno
    exact run_portCycle_of_single hs hi (by simp [serialise, edgeRequest, hr, hnone, he])

end Sys2Proof.Machine
end

section
/-! The tolerance and role tests by the ends of their bands (40_pulse_decoder.md R101). -/

namespace Sys2Proof.Machine

/-- The two forms of the tolerance test agree: the ends are rounded inwards, so no tick is gained or lost. -/
theorem inBand_iff_band {cfg : Config} {iv : Timestamp} {n : Nominal} :
    inBand cfg iv n = true ↔ (band cfg n).1 ≤ iv.toNat ∧ iv.toNat ≤ (band cfg n).2 := by
  refine ⟨fun h => ⟨inBand_lo_le h, inBand_le_hi h⟩, fun ⟨hlo, hhi⟩ => inBand_iff.2 ?_⟩
  obtain ⟨hLo, -⟩ := bandLo_bounds (cfg.nominal n).toNat cfg.tolPct.toNat
  obtain ⟨hHi, -⟩ := bandHi_bounds (cfg.nominal n).toNat cfg.tolPct.toNat
  simp only [band] at hlo hhi
  omega

theorem inBand_iff_of_band {cfg : Config} {iv : Timestamp} {n : Nominal} {lo hi : Nat} (h : band cfg n = (lo, hi)) :
    inBand cfg iv n = true ↔ lo ≤ iv.toNat ∧ iv.toNat ≤ hi := by
  rw [inBand_iff_band, h]

/-- A well-formed `CONFIG` has positive durations and a tolerance below 100, so each band begins above 0. -/
theorem inBand_zero {cfg : Config} (hc : cfg.wf = true) (n : Nominal) : inBand cfg 0 n = false := by
  rw [Bool.eq_false_iff]
  intro h
  have hlo := (inBand_iff.1 h).1
  have hpos : 0 < (cfg.nominal n).toNat * (100 - cfg.tolPct.toNat) :=
    Nat.mul_pos (config_nominal_pos hc n) (Nat.sub_pos_of_lt (Nat.lt_succ_of_le (config_tol_le hc)))
  exact absurd hlo (Nat.not_le_of_lt hpos)

theorem roleOk_reference {isMark want : Bool} : roleOk Config.reference isMark want = true ↔ isMark = want :=
  roleOk_iff.trans (or_iff_right (by decide))

/-- Settles O14: both forms of the tolerance test, and the role test, as propositions. -/
theorem toleranceAndRoleTests : Obligations.ToleranceAndRoleTests :=
  ⟨fun _ _ _ => ⟨inBand_iff, inBand_iff_band⟩, fun _ _ _ => roleOk_iff, rfl⟩

end Sys2Proof.Machine
end

section
/-! What one PD_STEP does and what its outcome tells (40_pulse_decoder.md R102 to R107, R110, R111). -/

namespace Sys2Proof.Machine

variable {cfg : Config} {d : DState} {n : BitVec 4} {a : BitVec 16} {iv : Timestamp} {isMark : Bool}

theorem isMarkOf_iff {m : Nominal} :
    isMarkOf cfg iv isMark m = true ↔ roleOk cfg isMark true = true ∧ inBand cfg iv m = true := by
  rw [isMarkOf, Bool.and_eq_true]

theorem isSpaceOf_iff {m : Nominal} :
    isSpaceOf cfg iv isMark m = true ↔ roleOk cfg isMark false = true ∧ inBand cfg iv m = true := by
  rw [isSpaceOf, Bool.and_eq_true]

/-- The space `iv` stands for data bit `b`: ZERO_SPACE is tested first (40_pulse_decoder.md R105). -/
def ClassifiedAs (cfg : Config) (iv : Timestamp) (b : Bool) : Prop :=
  b = false ∧ inBand cfg iv .zeroSpace = true ∨
    b = true ∧ inBand cfg iv .zeroSpace = false ∧ inBand cfg iv .oneSpace = true

theorem ClassifiedAs.zero_or_one {b : Bool} (h : ClassifiedAs cfg iv b) :
    inBand cfg iv .zeroSpace = true ∨ inBand cfg iv .oneSpace = true := by
  rcases h with ⟨-, hz⟩ | ⟨-, -, ho⟩
  · exact .inl hz
  · exact .inr ho

theorem pdRbSpace_of_classifiedAs {b : Bool} (hr : roleOk cfg isMark false = true) (h : ClassifiedAs cfg iv b) :
    pdRbSpace cfg n a iv isMark = accumulate n a b := by
  rcases h with ⟨rfl, hz⟩ | ⟨rfl, hz, ho⟩
  · simp [pdRbSpace, isSpaceOf, hr, hz]
  · simp [pdRbSpace, isSpaceOf, hr, hz, ho]

theorem pdRbSpace_of_unclassified
    (h : roleOk cfg isMark false = false ∨ inBand cfg iv .zeroSpace = false ∧ inBand cfg iv .oneSpace = false) :
    pdRbSpace cfg n a iv isMark = errTimingResult := by
  rcases h with hr | ⟨hz, ho⟩
  · simp [pdRbSpace, isSpaceOf, hr]
  · simp [pdRbSpace, isSpaceOf, hz, ho]

/-- A space is accumulated as the bit it is classified as, or is rejected. -/
theorem pdRbSpace_accumulates_or_rejects (cfg : Config) (n : BitVec 4) (a : BitVec 16) (iv : Timestamp) (isMark : Bool) :
    (∃ b, roleOk cfg isMark false = true ∧ ClassifiedAs cfg iv b ∧ pdRbSpace cfg n a iv isMark = accumulate n a b) ∨
    ((roleOk cfg isMark false = false ∨ inBand cfg iv .zeroSpace = false ∧ inBand cfg iv .oneSpace = false) ∧
      pdRbSpace cfg n a iv isMark = errTimingResult) := by
  rcases pdRbSpace_cases cfg n a iv isMark with ⟨hz, e⟩ | ⟨hz, ho, e⟩ | ⟨hz, ho, e⟩
  · obtain ⟨hr, hz⟩ := isSpaceOf_iff.1 hz
    exact .inl ⟨false, hr, .inl ⟨rfl, hz⟩, e⟩
  · obtain ⟨hr, ho⟩ := isSpaceOf_iff.1 ho
    refine .inl ⟨true, hr, .inr ⟨rfl, ?_, ho⟩, e⟩
    simpa [isSpaceOf, hr] using hz
  · refine .inr ⟨?_, e⟩
    cases hr : roleOk cfg isMark false with
    | false => exact .inl rfl
    | true => exact .inr ⟨by simpa [isSpaceOf, hr] using hz, by simpa [isSpaceOf, hr] using ho⟩

/-- Every PD_STEP rejects its interval or takes it as its position says (40_pulse_decoder.md R102 to R106). -/
theorem pdStep_cases (cfg : Config) (d : DState) (n : BitVec 4) (a : BitVec 16) (iv : Timestamp) (isMark : Bool) :
    pdStep cfg d n a iv isMark = errTimingResult ∨
    (d = .shIdle ∧ pdStep cfg d n a iv isMark = goOn .shMark 0 0) ∨
    (d = .shMark ∧ pdStep cfg d n a iv isMark = goOn .rbMark 0 0) ∨
    (d = .shMark ∧ pdStep cfg d n a iv isMark = foldBack .repeatCode 0) ∨
    (d = .rbMark ∧ pdStep cfg d n a iv isMark = goOn .rbSpace n a) ∨
    (d = .rbSpace ∧ ∃ b, roleOk cfg isMark false = true ∧ ClassifiedAs cfg iv b ∧
      pdStep cfg d n a iv isMark = accumulate n a b) := by
  cases d with
  | shIdle => rcases pdShIdle_cases cfg iv isMark with ⟨-, e⟩ | ⟨-, e⟩ <;> simp [pdStep, e]
  | shMark => rcases pdShMark_cases cfg iv isMark with ⟨-, e⟩ | ⟨-, -, e⟩ | ⟨-, -, e⟩ <;> simp [pdStep, e]
  | rbMark => rcases pdRbMark_cases cfg n a iv isMark with ⟨-, e⟩ | ⟨-, e⟩ <;> simp [pdStep, e]
  | rbSpace =>
    rcases pdRbSpace_accumulates_or_rejects cfg n a iv isMark with h | ⟨-, e⟩
    · exact .inr (.inr (.inr (.inr (.inr ⟨rfl, h⟩))))
    · exact .inl e

/-! ### What each outcome tells -/

theorem accumulate_of_noSymbol {b : Bool} (h : (accumulate n a b).out = .noSymbol) :
    n.toNat + 1 < 16 ∧ accumulate n a b = goOn .rbMark (n + 1) (accWithBit n a b) := by
  rcases accumulate_cases n a b with h' | ⟨-, -, e⟩ | ⟨-, -, e⟩
  · exact h'
  all_goals rw [e] at h; cases h

theorem accumulate_of_symbol {b : Bool} (h : (accumulate n a b).out = .symbol) :
    n = 15 ∧ checkByte (accWithBit n a b) = ~~~commandByte (accWithBit n a b) ∧
      accumulate n a b = foldBack .symbol (commandByte (accWithBit n a b)) := by
  rcases accumulate_cases n a b with ⟨-, e⟩ | h' | ⟨-, -, e⟩
  · rw [e] at h; cases h
  · exact h'
  · rw [e] at h; cases h

theorem accumulate_out_ne_errTiming (n : BitVec 4) (a : BitVec 16) (b : Bool) : (accumulate n a b).out ≠ .errTiming := by
  rcases accumulate_cases n a b with ⟨-, e⟩ | ⟨-, -, e⟩ | ⟨-, -, e⟩ <;> rw [e] <;> exact PdOut.noConfusion

/-- NoSymbol: the decoder went on along the frame, to the one position that follows. -/
theorem pdStep_of_noSymbol (h : (pdStep cfg d n a iv isMark).out = .noSymbol) :
    (d = .shIdle ∧ pdStep cfg d n a iv isMark = goOn .shMark 0 0) ∨
    (d = .shMark ∧ pdStep cfg d n a iv isMark = goOn .rbMark 0 0) ∨
    (d = .rbMark ∧ pdStep cfg d n a iv isMark = goOn .rbSpace n a) ∨
    (d = .rbSpace ∧ n.toNat + 1 < 16 ∧ ∃ b, pdStep cfg d n a iv isMark = goOn .rbMark (n + 1) (accWithBit n a b)) := by
  rcases pdStep_cases cfg d n a iv isMark with e | h' | h' | ⟨-, e⟩ | h' | ⟨hd, b, -, -, e⟩
  · rw [e] at h; cases h
  · exact .inl h'
  · exact .inr (.inl h')
  · rw [e] at h; cases h
  · exact .inr (.inr (.inl h'))
  · rw [e] at h
    obtain ⟨hn, e'⟩ := accumulate_of_noSymbol h
    exact .inr (.inr (.inr ⟨hd, hn, b, e.trans e'⟩))

/-- Symbol: the space of bit 15 was classified, and the accumulator with its bit passed the check. -/
theorem pdStep_of_symbol (h : (pdStep cfg d n a iv isMark).out = .symbol) :
    d = .rbSpace ∧ n = 15 ∧ roleOk cfg isMark false = true ∧ ∃ b, ClassifiedAs cfg iv b ∧
      checkByte (accWithBit n a b) = ~~~commandByte (accWithBit n a b) ∧
      pdStep cfg d n a iv isMark = foldBack .symbol (commandByte (accWithBit n a b)) := by
  rcases pdStep_cases cfg d n a iv isMark with e | ⟨-, e⟩ | ⟨-, e⟩ | ⟨-, e⟩ | ⟨-, e⟩ | ⟨hd, b, hr, hb, e⟩
  case inr.inr.inr.inr.inr =>
    rw [e] at h
    obtain ⟨hn, hcheck, e'⟩ := accumulate_of_symbol h
    exact ⟨hd, hn, hr, b, hb, hcheck, e.trans e'⟩
  all_goals rw [e] at h; cases h

/-- ErrTiming has one form. -/
theorem pdStep_of_errTiming (h : (pdStep cfg d n a iv isMark).out = .errTiming) :
    pdStep cfg d n a iv isMark = errTimingResult := by
  rcases pdStep_cases cfg d n a iv isMark with e | ⟨-, e⟩ | ⟨-, e⟩ | ⟨-, e⟩ | ⟨-, e⟩ | ⟨-, b, -, -, e⟩
  · exact e
  case inr.inr.inr.inr.inr => exact absurd (e ▸ h) (accumulate_out_ne_errTiming n a b)
  all_goals rw [e] at h; cases h

theorem accWithBit_eq (n : BitVec 4) (a : BitVec 16) (b : Bool) :
    accWithBit n a b = a ||| ((if b = true then 1#16 else 0#16) <<< n.toNat) := by
  cases b <;> rfl

/-- Settles O19: what the outcome Symbol tells, with the accumulator's last bit written out. -/
theorem failedCheckNeverGivesSymbol : Obligations.FailedCheckNeverGivesSymbol := by
  intro cfg d n a iv isMark h
  obtain ⟨hd, rfl, hr, b, hb, hcheck, e⟩ := pdStep_of_symbol h
  exact ⟨hd, rfl, hr, b, accWithBit 15 a b, hb, accWithBit_eq 15 a b, hcheck, e⟩

/-- Settles O20: the rejected interval's result is the reset decoder state, from which the run goes on. -/
theorem resynchronisesAfterAFailedInterval : Obligations.ResynchronisesAfterAFailedInterval := by
  intro cfg d n a iv isMark ivs h
  rw [pdRun, pdStep_of_errTiming h]
  rfl

end Sys2Proof.Machine
end

section
/-! The transitions of each position as 40_pulse_decoder.md R102 to R105 write them, and the ranges of the reference bands. -/

namespace Sys2Proof.Machine

variable {cfg : Config} {n : BitVec 4} {a : BitVec 16} {iv : Timestamp} {isMark : Bool}

theorem pdShIdle_eq (cfg : Config) (iv : Timestamp) (isMark : Bool) :
    pdShIdle cfg iv isMark =
      if roleOk cfg isMark true = true ∧ inBand cfg iv .hdrMark = true then goOn .shMark 0 0 else errTimingResult := by
  simp only [pdShIdle, isMarkOf_iff]

theorem pdShMark_eq (cfg : Config) (iv : Timestamp) (isMark : Bool) :
    pdShMark cfg iv isMark =
      if roleOk cfg isMark false = true ∧ inBand cfg iv .hdrSpace = true then goOn .rbMark 0 0
      else if roleOk cfg isMark false = true ∧ inBand cfg iv .rptSpace = true then foldBack .repeatCode 0
      else errTimingResult := by
  simp only [pdShMark, isSpaceOf_iff]

theorem pdRbMark_eq (cfg : Config) (n : BitVec 4) (a : BitVec 16) (iv : Timestamp) (isMark : Bool) :
    pdRbMark cfg n a iv isMark =
      if roleOk cfg isMark true = true ∧ inBand cfg iv .bitMark = true then goOn .rbSpace n a else errTimingResult := by
  simp only [pdRbMark, isMarkOf_iff]

theorem pdShIdle_noSymbol_iff :
    (pdShIdle cfg iv isMark).out = .noSymbol ↔ roleOk cfg isMark true = true ∧ inBand cfg iv .hdrMark = true := by
  rw [pdShIdle_eq]
  split_ifs with h
  · exact iff_of_true rfl h
  · exact iff_of_false PdOut.noConfusion h

theorem pdShMark_noSymbol_iff :
    (pdShMark cfg iv isMark).out = .noSymbol ↔ roleOk cfg isMark false = true ∧ inBand cfg iv .hdrSpace = true := by
  rw [pdShMark_eq]
  split_ifs with hh hr
  · exact iff_of_true rfl hh
  · exact iff_of_false PdOut.noConfusion hh
  · exact iff_of_false PdOut.noConfusion hh

theorem not_hdrSpace_and_rptSpace (hc : cfg.wf = true) :
    ¬ (inBand cfg iv .hdrSpace = true ∧ inBand cfg iv .rptSpace = true) := by
  rintro ⟨hh, hr⟩
  rw [not_inBand_of_disjoint (config_wf_iff.1 hc).2.1 hh] at hr
  cases hr

theorem not_zeroSpace_and_oneSpace (hc : cfg.wf = true) :
    ¬ (inBand cfg iv .zeroSpace = true ∧ inBand cfg iv .oneSpace = true) := by
  rintro ⟨hz, ho⟩
  rw [not_inBand_of_disjoint (config_wf_iff.1 hc).2.2.1 hz] at ho
  cases ho

/-- The header space is tested first, which changes nothing where the two bands are disjoint. -/
theorem pdShMark_repeatCode_iff (hc : cfg.wf = true) :
    (pdShMark cfg iv isMark).out = .repeatCode ↔ roleOk cfg isMark false = true ∧ inBand cfg iv .rptSpace = true := by
  rw [pdShMark_eq]
  split_ifs with hh hr
  · exact iff_of_false PdOut.noConfusion fun hr => not_hdrSpace_and_rptSpace hc ⟨hh.2, hr.2⟩
  · exact iff_of_true rfl hr
  · exact iff_of_false PdOut.noConfusion hr

/-- Settles O15: the case distinctions are PD_STEP's own, and the ranges are the reference bands. -/
theorem seekingHeaderTransitions : Obligations.SeekingHeaderTransitions := by
  obtain ⟨-, -, hHdrMark, hHdrSpace, hRptSpace, -⟩ := referenceBandTable
  refine ⟨fun cfg _ _ iv isMark => ⟨pdShIdle_eq cfg iv isMark, pdShMark_eq cfg iv isMark⟩, fun _ n hc => inBand_zero hc n,
    fun _ _ hc => not_hdrSpace_and_rptSpace hc, fun iv isMark => ⟨?_, ?_, ?_, ?_⟩⟩
  · exact pdShIdle_noSymbol_iff.trans (and_congr roleOk_reference (inBand_iff_of_band hHdrMark))
  · exact pdShIdle_noSymbol_iff.trans ((and_iff_right (roleOk_iff.2 (.inl rfl))).trans (inBand_iff_of_band hHdrMark))
  · exact pdShMark_noSymbol_iff.trans (and_congr roleOk_reference (inBand_iff_of_band hHdrSpace))
  · exact (pdShMark_repeatCode_iff (by decide)).trans (and_congr roleOk_reference (inBand_iff_of_band hRptSpace))

theorem pdRbMark_errTiming_iff :
    (pdRbMark cfg n a iv isMark).out = .errTiming ↔ ¬ (roleOk cfg isMark true = true ∧ inBand cfg iv .bitMark = true) := by
  rw [pdRbMark_eq]
  split_ifs with h
  · exact iff_of_false PdOut.noConfusion (not_not_intro h)
  · exact iff_of_true rfl h

/-- A space is rejected exactly when it stands for no data bit. -/
theorem pdRbSpace_errTiming_iff :
    (pdRbSpace cfg n a iv isMark).out = .errTiming ↔
      ¬ (roleOk cfg isMark false = true ∧ (inBand cfg iv .zeroSpace = true ∨ inBand cfg iv .oneSpace = true)) := by
  rcases pdRbSpace_accumulates_or_rejects cfg n a iv isMark with ⟨b, hr, hb, e⟩ | ⟨h, e⟩ <;> rw [e]
  · exact iff_of_false (accumulate_out_ne_errTiming n a b) (not_not_intro ⟨hr, hb.zero_or_one⟩)
  · exact iff_of_true rfl (by rcases h with hr | ⟨hz, ho⟩ <;> simp [*])

theorem accumulate_of_lt (h : n.toNat + 1 < 16) (b : Bool) :
    accumulate n a b = goOn .rbMark (n + 1) (accWithBit n a b) := if_pos h

theorem accumulate_of_eq_15 (h : n.toNat = 15) (b : Bool) : accumulate n a b = complete (accWithBit n a b) :=
  if_neg (by rw [h]; decide)

/-- Settles O16: the bit a space is classified as is accumulated, and the ranges are the reference bands. -/
theorem readingBitsTransitions : Obligations.ReadingBitsTransitions := by
  obtain ⟨-, -, -, -, -, hBitMark, hZeroSpace, hOneSpace⟩ := referenceBandTable
  refine ⟨pdRbMark_eq, fun cfg n a iv isMark b hr hb => ⟨fun hn => ?_, fun hn => ?_⟩,
    fun _ _ _ _ _ h => pdRbSpace_of_unclassified h, fun _ _ hc => not_zeroSpace_and_oneSpace hc,
    fun n a iv isMark => ⟨?_, ?_⟩⟩
  · rw [← accWithBit_eq]
    exact (pdRbSpace_of_classifiedAs hr hb).trans (accumulate_of_lt hn b)
  · rw [← hn, ← accWithBit_eq]
    exact (pdRbSpace_of_classifiedAs hr hb).trans (accumulate_of_eq_15 hn b)
  · exact pdRbMark_errTiming_iff.trans (not_congr (and_congr roleOk_reference (inBand_iff_of_band hBitMark)))
  · exact pdRbSpace_errTiming_iff.trans (not_congr (and_congr roleOk_reference
      (or_congr (inBand_iff_of_band hZeroSpace) (inBand_iff_of_band hOneSpace))))

/-- Settles O18: a header mark is all that leaves `SH_IDLE`, and the stop mark's band lies below the header mark's. -/
theorem terminalOutcomesFoldBack : Obligations.TerminalOutcomesFoldBack := by
  obtain ⟨-, -, hHdrMark, -, -, hBitMark, -⟩ := referenceBandTable
  refine ⟨fun cfg d n a iv isMark h => ?_, fun cfg iv isMark h => (pdShIdle_eq cfg iv isMark).trans (if_neg h),
    fun iv h => (pdShIdle_eq _ iv true).trans (if_neg ?_)⟩
  · rw [pdStep_foldBack h]
    exact ⟨rfl, rfl, rfl⟩
  · rintro ⟨-, hhdr⟩
    have hlo := ((inBand_iff_of_band hHdrMark).1 hhdr).1
    have hhi := ((inBand_iff_of_band hBitMark).1 h).2
    omega

/-! ### The complement check -/

theorem complete_symbol_iff {acc : BitVec 16} :
    (complete acc).out = .symbol ↔ checkByte acc = ~~~commandByte acc := by
  unfold complete
  split_ifs with h
  · exact iff_of_true rfl h
  · exact iff_of_false PdOut.noConfusion h

theorem complete_errChecksum_iff {acc : BitVec 16} :
    (complete acc).out = .errChecksum ↔ checkByte acc ≠ ~~~commandByte acc := by
  unfold complete
  split_ifs with h
  · exact iff_of_false PdOut.noConfusion (not_not_intro h)
  · exact iff_of_true rfl h

/-- A flip keeps the complement only if it does the same to both bytes. -/
theorem complement_xor_iff {acc flip : BitVec 16} (h : checkByte acc = ~~~commandByte acc) :
    checkByte (acc ^^^ flip) = ~~~commandByte (acc ^^^ flip) ↔ checkByte flip = commandByte flip := by
  simp only [checkByte, commandByte] at h ⊢
  rw [BitVec.extractLsb'_xor, BitVec.extractLsb'_xor, h, ← BitVec.not_xor_left]
  simp

/-- Settles O17: a single set bit lies in one byte only. -/
theorem completionChecksTheComplement : Obligations.CompletionChecksTheComplement := by
  refine ⟨fun _ => rfl, by decide, by decide, by decide, by decide, by decide, by decide, fun acc i hi h => ?_⟩
  have hflip : ∀ i < 16, checkByte (1#16 <<< i) ≠ commandByte (1#16 <<< i) := by decide
  rw [complete_symbol_iff] at h
  rw [complete_errChecksum_iff, Ne, complement_xor_iff h]
  exact hflip i hi

end Sys2Proof.Machine
end

section
/-! A valid frame on its 34 intervals, and what a Symbol that only NoSymbol precedes must have been (40_pulse_decoder.md
R112). -/

namespace Sys2Proof.Machine

/-! ### The accumulator after the data bits of a frame -/

theorem accBits_append_singleton (n : BitVec 4) (a : BitVec 16) (bs : List Bool) (b : Bool) :
    accBits n a (bs ++ [b]) = accWithBit (n + BitVec.ofNat 4 bs.length) (accBits n a bs) b := by
  induction bs generalizing n a with
  | nil => simp [accBits]
  | cons x bs ih =>
    have hlen : n + 1 + BitVec.ofNat 4 bs.length = n + BitVec.ofNat 4 (bs.length + 1) := by
      rw [BitVec.ofNat_add, BitVec.add_assoc, BitVec.add_comm 1]
      rfl
    rw [List.cons_append, accBits, ih, hlen, accBits, List.length_cons]

theorem accWithBit_getLsbD {n : BitVec 4} {a : BitVec 16} {b : Bool} {j : Nat} (hj : j < 16) :
    (accWithBit n a b).getLsbD j = (a.getLsbD j || decide (j = n.toNat) && b) := by
  rw [accWithBit_eq, BitVec.getLsbD_or, BitVec.getLsbD_shiftLeft]
  cases b with
  | false => simp
  | true =>
    have hone : (!decide (j < n.toNat) && decide (j - n.toNat = 0)) = decide (j = n.toNat) := by
      rw [Bool.eq_iff_iff]; simp; omega
    simp [hj, BitVec.getLsbD_one, hone]

/-- Data bit `i` of a frame is bit `i` of `ACC` (40_pulse_decoder.md R105). -/
theorem accBits_getLsbD {bs : List Bool} (hbs : bs.length ≤ 16) {j : Nat} (hj : j < 16) :
    (accBits 0 0 bs).getLsbD j = bs.getD j false := by
  induction bs using List.reverseRecOn with
  | nil => simp [accBits]
  | append_singleton bs b ih =>
    rw [List.length_append, List.length_singleton] at hbs
    have hn : (0 + BitVec.ofNat 4 bs.length).toNat = bs.length := by simp; omega
    rw [accBits_append_singleton, accWithBit_getLsbD hj, ih (by omega), hn]
    rcases Nat.lt_trichotomy j bs.length with h | h | h
    · rw [List.getD_append _ _ _ _ h]
      simp [Nat.ne_of_lt h]
    · simp [h]
    · rw [List.getD_eq_default _ _ (by omega), List.getD_eq_default _ _ (by simp; omega)]
      simp [Nat.ne_of_gt h]

theorem frameBitsOf_getD (c : Code) {j : Nat} (hj : j < 16) :
    (frameBitsOf c).getD j false = if j < 8 then c.getLsbD j else (~~~c).getLsbD (j - 8) := by
  unfold frameBitsOf
  split_ifs with h
  · rw [List.getD_append _ _ _ _ (by simpa using h)]
    simp [h]
  · rw [List.getD_append_right _ _ _ _ (by simp; omega)]
    have hj' : j - 8 < 8 := by omega
    simp [hj']

/-- The second byte of a frame goes above the first (30_encoding.md R78). -/
theorem accBits_frameBitsOf (c : Code) : accBits 0 0 (frameBitsOf c) = ~~~c ++ c := by
  apply BitVec.eq_of_getLsbD_eq
  intro j hj
  rw [accBits_getLsbD (by simp [frameBitsOf]) hj, frameBitsOf_getD c hj, BitVec.getLsbD_append]

theorem complete_frameBits (c : Code) : complete (accBits 0 0 (frameBitsOf c)) = foldBack .symbol c := by
  have hcommand : commandByte (~~~c ++ c) = c := BitVec.extractLsb'_append_eq_right
  have hcheck : checkByte (~~~c ++ c) = ~~~c := BitVec.extractLsb'_append_eq_left
  rw [accBits_frameBitsOf, complete, hcommand, if_pos hcheck]

/-! ### A valid frame -/

/-- The intervals `ivs`, each with the role of its slot. -/
abbrev withRoles (slots : List Slot) (ivs : List Timestamp) : List (Bool × Timestamp) := (slots.map Prod.fst).zip ivs

theorem withRoles_append {cfg : Config} {l1 l2 : List Slot} {ivs1 : List Timestamp} (h : inBands cfg l1 ivs1)
    (ivs2 : List Timestamp) : withRoles (l1 ++ l2) (ivs1 ++ ivs2) = withRoles l1 ivs1 ++ withRoles l2 ivs2 := by
  rw [withRoles, List.map_append, List.zip_append (by rw [List.length_map, List.Forall₂.length_eq h])]

theorem inBands_pair {cfg : Config} {x y : Slot} {ivs : List Timestamp} (h : inBands cfg [x, y] ivs) :
    ∃ iv1 iv2, ivs = [iv1, iv2] ∧ inBand cfg iv1 x.2 = true ∧ inBand cfg iv2 y.2 = true := by
  obtain ⟨iv1, l, h1, h', rfl⟩ := List.forall₂_cons_left_iff.1 h
  obtain ⟨iv2, l, h2, h'', rfl⟩ := List.forall₂_cons_left_iff.1 h'
  obtain rfl := List.forall₂_nil_left_iff.1 h''
  exact ⟨iv1, iv2, rfl, h1, h2⟩

/-- The header takes the decoder from `SH_IDLE` to the mark of bit 0. -/
theorem pdRun_header {cfg : Config} {ivs : List Timestamp} (h : inBands cfg headerSlots ivs) :
    pdRun cfg .shIdle 0 0 (withRoles headerSlots ivs) = [goOn .shMark 0 0, goOn .rbMark 0 0] ∧
      pdEnd cfg .shIdle 0 0 (withRoles headerSlots ivs) = (.rbMark, 0, 0) := by
  obtain ⟨iv1, iv2, rfl, h1, h2⟩ := inBands_pair h
  have hmark : pdStep cfg .shIdle 0 0 iv1 true = goOn .shMark 0 0 :=
    (pdShIdle_eq cfg iv1 true).trans (if_pos ⟨roleOk_iff.2 (.inr rfl), h1⟩)
  have hspace : pdStep cfg .shMark 0 0 iv2 false = goOn .rbMark 0 0 :=
    (pdShMark_eq cfg iv2 false).trans (if_pos ⟨roleOk_iff.2 (.inr rfl), h2⟩)
  simp only [withRoles, headerSlots, List.map_cons, List.map_nil, List.zip_cons_cons, List.zip_nil_left, pdRun, pdEnd,
    hmark, goOn, hspace, and_self]

/-- The last data bit completes the frame. -/
theorem pdRun_lastBit {cfg : Config} (hc : cfg.wf = true) (a : BitVec 16) {b : Bool} {ivs : List Timestamp}
    (h : inBands cfg (bitSlots b) ivs) :
    pdRun cfg .rbMark 15 a (withRoles (bitSlots b) ivs) = [goOn .rbSpace 15 a, complete (accWithBit 15 a b)] := by
  obtain ⟨iv1, iv2, rfl, h1, h2⟩ := inBands_pair h
  have hspace : pdStep cfg .rbSpace 15 a iv2 false = complete (accWithBit 15 a b) :=
    (pdStep_rbSpace_of_inBand hc 15 a h2).trans (accumulate_of_eq_15 rfl b)
  simp only [withRoles, bitSlots, List.map_cons, List.map_nil, List.zip_cons_cons, List.zip_nil_left, pdRun,
    pdStep_rbMark_of_inBand 15 a h1, goOn, hspace]

/-- A header and 16 data bits in their bands give NoSymbol until the last space, which gives what the check gives. -/
theorem pdRun_frame {cfg : Config} (hc : cfg.wf = true) {bs : List Bool} {b : Bool} (hbs : bs.length = 15)
    {ivs : List Timestamp} (h : inBands cfg (headerSlots ++ (bs ++ [b]).flatMap bitSlots) ivs) :
    ∃ before : List PdResult,
      pdRun cfg .shIdle 0 0 (withRoles (headerSlots ++ (bs ++ [b]).flatMap bitSlots) ivs) =
        before ++ [complete (accBits 0 0 (bs ++ [b]))] ∧ ∀ r ∈ before, r.out = .noSymbol := by
  obtain ⟨header, bits, rfl, hheader, hbits⟩ := inBands_append h
  rw [List.flatMap_append, List.flatMap_singleton] at hbits ⊢
  obtain ⟨first, last, rfl, hfirst, hlast⟩ := inBands_append hbits
  obtain ⟨eheader, endHeader⟩ := pdRun_header hheader
  have h15 : 0 + BitVec.ofNat 4 bs.length = 15 := by rw [hbs]; rfl
  obtain ⟨-, hno, endFirst⟩ := pdRun_bits hc bs 0 0 first (by simp [hbs]) hfirst
  rw [h15] at endFirst
  refine ⟨[goOn .shMark 0 0, goOn .rbMark 0 0] ++ pdRun cfg .rbMark 0 0 (withRoles (bs.flatMap bitSlots) first) ++
    [goOn .rbSpace 15 (accBits 0 0 bs)], ?_, fun r hr => ?_⟩
  · rw [withRoles_append hheader, withRoles_append hfirst, pdRun_append, eheader, endHeader, pdRun_append, endFirst,
      pdRun_lastBit hc _ hlast, accBits_append_singleton, h15]
    simp only [List.append_assoc, List.singleton_append]
  · simp only [List.mem_append, List.mem_cons, List.not_mem_nil, or_false] at hr
    rcases hr with ((rfl | rfl) | hr) | rfl
    · rfl
    · rfl
    · exact hno r hr
    · rfl

/-! ### Where a Symbol comes from -/

/-- The positions entered from the mark of a data bit with `k` more to follow, up to the space of the last. -/
def positionsFromMark (k : Nat) : List DState := (List.replicate k [.rbSpace, .rbMark]).flatten ++ [.rbSpace]

/-- The positions a valid frame still takes the decoder through, from position `d` and bit `n` on, before its Symbol. -/
def positionsAhead (d : DState) (n : BitVec 4) : List DState :=
  match d with
  | .shIdle => .shMark :: .rbMark :: positionsFromMark 15
  | .shMark => .rbMark :: positionsFromMark 15
  | .rbMark => positionsFromMark (15 - n.toNat)
  | .rbSpace => (positionsFromMark (15 - n.toNat)).tail

variable {cfg : Config} {d : DState} {n : BitVec 4} {a : BitVec 16} {iv : Timestamp} {isMark : Bool}

/-- NoSymbol takes the decoder one position further along the frame. -/
theorem positionsAhead_of_noSymbol {r : PdResult} (e : pdStep cfg d n a iv isMark = r) (h : r.out = .noSymbol) :
    positionsAhead d n = r.dstate :: positionsAhead r.dstate r.bitcnt := by
  subst e
  rcases pdStep_of_noSymbol h with ⟨rfl, e⟩ | ⟨rfl, e⟩ | ⟨rfl, e⟩ | ⟨rfl, hn, b, e⟩ <;> rw [e]
  · rfl
  · rfl
  · simp only [positionsAhead, goOn]
    cases 15 - n.toNat <;> rfl
  · have hk : 15 - n.toNat = 15 - (n + 1).toNat + 1 := by bv_omega
    simp only [positionsAhead, goOn, hk]
    rfl

/-- By induction on the results before the Symbol: each is one of the positions ahead, and the Symbol comes when none is left. -/
theorem map_dstate_of_symbol_last {before : List PdResult} {last : PdResult} (hlast : last.out = .symbol) :
    ∀ {d : DState} {n : BitVec 4} {a : BitVec 16} {ivs : List (Bool × Timestamp)},
      pdRun cfg d n a ivs = before ++ [last] → (∀ r ∈ before, r.out = .noSymbol) →
      before.map (fun r => r.dstate) = positionsAhead d n := by
  induction before with
  | nil =>
    intro d n a ivs hrun _
    match ivs with
    | [] => cases hrun
    | (isMark, iv) :: rest =>
      obtain ⟨rfl, -⟩ := List.cons.inj hrun
      obtain ⟨rfl, rfl, -⟩ := pdStep_of_symbol hlast
      rfl
  | cons r before ih =>
    intro d n a ivs hrun hno
    match ivs with
    | [] => cases hrun
    | (isMark, iv) :: rest =>
      obtain ⟨hstep, hrun⟩ := List.cons.inj hrun
      rw [hstep] at hrun
      rw [positionsAhead_of_noSymbol hstep (hno r (.head _)), ← ih hrun fun x hx => hno x (.tail _ hx)]
      rfl

theorem length_eq_of_pdRun {ivs : List (Bool × Timestamp)} {before : List PdResult} {last : PdResult}
    (h : pdRun cfg d n a ivs = before ++ [last]) : ivs.length = before.length + 1 := by
  rw [← pdRun_length cfg d n a ivs, h, List.length_append, List.length_singleton]

/-- Settles O21: the run of a valid frame, and the positions ahead of `SH_IDLE`. -/
theorem frameGivesItsSymbolOnInterval34 : Obligations.FrameGivesItsSymbolOnInterval34 := by
  refine ⟨fun cfg c ivs hc h => ?_, fun cfg ivs before last hrun hno hlast => ?_⟩
  · have hlen : ivs.length = 34 := (List.Forall₂.length_eq h).symm.trans (frameSlots_length c (~~~c))
    obtain ⟨bs, b, hbits⟩ : ∃ bs b, frameBitsOf c = bs ++ [b] :=
      ⟨_, _, (List.dropLast_concat_getLast (by simp [frameBitsOf])).symm⟩
    have hbs : bs.length = 15 := by simpa [frameBitsOf] using (congrArg List.length hbits).symm
    rw [frameSlots_eq, hbits] at h
    obtain ⟨before, hrun, hno⟩ := pdRun_frame hc hbs h
    rw [← hbits, complete_frameBits, ← frameSlots_eq] at hrun
    refine ⟨hlen, before, hrun, ?_, hno⟩
    have hzip := length_eq_of_pdRun hrun
    rw [List.length_zip, List.length_map, frameSlots_length, hlen] at hzip
    exact (Nat.succ.inj hzip).symm
  · have hpos := map_dstate_of_symbol_last hlast hrun hno
    have hbefore : before.length = 33 := by simpa [positionsAhead, positionsFromMark] using congrArg List.length hpos
    exact ⟨by rw [length_eq_of_pdRun hrun, hbefore], hpos⟩

end Sys2Proof.Machine
end

section
/-! Adding a constant to every timestamp (40_pulse_decoder.md R109): an EDGE reads `PREV_TS` in the interval alone, and reads
nothing of the stream behind it. -/

namespace Sys2Proof.Machine

/-- `s` with another `PREV_TS` and another stream to come. -/
def State.retimed (prev : Timestamp) (words : List TxWord) (s : State) : State := { s with prevTs := prev, input := words }

/-- What an EDGE does with an outcome neither reads nor writes `PREV_TS` and the stream. -/
theorem handleOutcome_retimed (now : Instant) (out : PdOut) (code : Code) (prev : Timestamp) (words : List TxWord)
    (s : State) :
    handleOutcome now out code (s.retimed prev words) = (handleOutcome now out code s).retimed prev words := by
  cases out with
  | symbol =>
    simp only [handleOutcome, mapThenGate, State.retimed]
    cases mapCode s.cfg code with
    | none => rfl
    | some sym =>
      simp only [gateSymbol, accept]
      cases gateResult s.cfg.qw s.lastValid s.lastAcc now <;> rfl
  | _ => rfl

/-! ### The three forms of an EDGE, each with its condition (60_exceptions.md R227) -/

theorem edgeEffect_of_pending {s : State} (ho : s.outValid = true) (ts : Timestamp) (now : Instant) :
    edgeEffect ts now s = s.record .lost 0 := if_pos ho

theorem edgeEffect_of_unprimed {s : State} (ho : s.outValid = false) (hp : s.prevValid = false) (ts : Timestamp)
    (now : Instant) : edgeEffect ts now s = (s.consumeEdge ts).setPrevValid.record .primed 0 := by
  simp [edgeEffect, ho, hp]

theorem edgeEffect_of_primed {s : State} (ho : s.outValid = false) (hp : s.prevValid = true) (ts : Timestamp)
    (now : Instant) :
    edgeEffect ts now s = handleOutcome now (decodeEdge ts s).out (decodeEdge ts s).code (s.afterDecode ts) := by
  simp [edgeEffect, ho, hp]

theorem edgeEffect_input (ts : Timestamp) (now : Instant) (s : State) : (edgeEffect ts now s).input = s.input := by
  cases ho : s.outValid with
  | true => rw [edgeEffect_of_pending ho, record_input]
  | false =>
    obtain ⟨-, -, -, hin⟩ := edgeEffect_consumed ho ts now
    exact hin

/-! ### A shifted EDGE, and a run of them -/

theorem decodeEdge_shift (c ts : Timestamp) (words : List TxWord) (s : State) :
    decodeEdge (ts + c) (s.retimed (s.prevTs + c) words) = decodeEdge ts s := by
  simp only [decodeEdge, State.retimed, interval_shift]

/-- The shifted EDGE has the same effect, with its own timestamp in `PREV_TS`; the first edge does not read the old one. -/
theorem edgeEffect_shift {c prev : Timestamp} {s : State}
    (hprev : prev = s.prevTs + c ∨ s.prevValid = false ∧ s.outValid = false) (ts : Timestamp) (now : Instant)
    (words : List TxWord) :
    edgeEffect (ts + c) now (s.retimed prev words) =
      (edgeEffect ts now s).retimed ((edgeEffect ts now s).prevTs + c) words := by
  cases ho : s.outValid with
  | true =>
    obtain rfl : prev = s.prevTs + c := by simpa [ho] using hprev
    rw [edgeEffect_of_pending ho, edgeEffect_of_pending (s := s.retimed (s.prevTs + c) words) ho]
    rfl
  | false =>
    cases hp : s.prevValid with
    | false =>
      rw [edgeEffect_of_unprimed ho hp, edgeEffect_of_unprimed (s := s.retimed prev words) ho hp]
      rfl
    | true =>
      obtain rfl : prev = s.prevTs + c := by simpa [hp] using hprev
      obtain ⟨hts, -⟩ := edgeEffect_consumed ho ts now
      rw [hts, edgeEffect_of_primed ho hp, edgeEffect_of_primed (s := s.retimed (s.prevTs + c) words) ho hp,
        decodeEdge_shift, ← handleOutcome_retimed, State.afterDecode, decodeEdge_shift]
      rfl

/-- The words of EDGEs whose timestamps are `c` later. -/
def shiftedEdges (c : Timestamp) (edges : List (Timestamp × Instant)) : List TxWord :=
  edges.map fun e => encode (.edge (e.1 + c) e.2)

/-- A step that takes an EDGE, and the step that takes the shifted one. -/
theorem step_edge_shift {c prev ts : Timestamp} {now : Instant} {s u : State} {rest words : List TxWord}
    (hi : s.input = encode (.edge ts now) :: rest)
    (hprev : prev = s.prevTs + c ∨ s.prevValid = false ∧ s.outValid = false) (h : step s = .next u) :
    u.input = rest ∧
      step (s.retimed prev (encode (.edge (ts + c) now) :: words)) = .next (u.retimed (u.prevTs + c) words) := by
  obtain ⟨hc, hf, -⟩ := step_cases h
  rw [step_of_encode ⟨hc, hf⟩ hi] at h
  obtain rfl : edgeEffect ts now { s with input := rest } = u := Host.Outcome.next.inj h
  refine ⟨edgeEffect_input _ _ _, ?_⟩
  have hstep := step_of_encode (s := s.retimed prev (encode (.edge (ts + c) now) :: words)) ⟨hc, hf⟩ rfl
  exact hstep.trans <| congrArg Host.Outcome.next (edgeEffect_shift (s := { s with input := rest }) hprev ts now words)

/-- By induction on the number of steps: after each, `PREV_TS` is shifted, so only the first can begin with any other. -/
theorem run_shift {c : Timestamp} {rest : List TxWord} {n : Nat} {t : State} :
    ∀ {prev : Timestamp} {edges : List (Timestamp × Instant)} {s : State},
      s.input = (edges.map fun e => encode (.edge e.1 e.2)) ++ rest →
      (prev = s.prevTs + c ∨ s.prevValid = false ∧ s.outValid = false ∧ 0 < n) →
      n ≤ edges.length → run n s = .next t →
      run n (s.retimed prev (shiftedEdges c edges ++ rest)) =
        .next (t.retimed (t.prevTs + c) (shiftedEdges c (edges.drop n) ++ rest)) := by
  induction n with
  | zero =>
    intro prev edges s _ hprev _ hrun
    obtain rfl : s = t := Host.Outcome.next.inj hrun
    obtain rfl : prev = s.prevTs + c := by simpa using hprev
    rfl
  | succ n ih =>
    intro prev edges s hi hprev hn hrun
    cases edges with
    | nil => simp at hn
    | cons e edges =>
      obtain ⟨u, hstep, hrun⟩ := run_succ_next hrun
      obtain ⟨hu, hstep'⟩ := step_edge_shift (words := shiftedEdges c edges ++ rest) hi
        (hprev.imp_right fun h => ⟨h.1, h.2.1⟩) hstep
      exact (run_of_next hstep' n).trans (ih hu (.inl rfl) (Nat.le_of_succ_le_succ hn) hrun)

/-- Settles O43: the run of the shifted EDGEs. -/
theorem shiftedTimestampsDecodeAlike : Obligations.ShiftedTimestampsDecodeAlike :=
  fun _ _ _ _ _ _ _ _ hi hprev hn hrun => run_shift hi hprev hn hrun

end Sys2Proof.Machine
end

section
/-! CommandMapper over a well-formed table: its codes are pairwise distinct (41_command_mapper.md R141(b)), so each of its twelve
pairs is the one that the ROM holds at its code, and every other entry is 0 (20_memory.md R50; 41_command_mapper.md R144). -/

namespace Sys2Proof.Machine

variable {cfg : Config} {c : Code} {sym : SymCode}

/-! ### The pair of a code, and the ROM entry it gives -/

theorem find?_code_of_mem {pairs : List MapPair} (hnd : (pairs.map Prod.fst).Nodup) (h : (c, sym) ∈ pairs) :
    (pairs.find? fun p => p.1 == c) = some (c, sym) := by
  cases hfind : pairs.find? fun p => p.1 == c with
  | none => exact absurd (BEq.refl c) (List.find?_eq_none.1 hfind _ h)
  | some p =>
    have hcode : p.1 = c := by simpa using List.find?_some hfind
    exact congrArg some (List.inj_on_of_nodup_map hnd (List.mem_of_find?_eq_some hfind) h hcode)

theorem mapCode_of_mem (hc : cfg.wf = true) (h : (c, sym) ∈ cfg.mapTable.pairs) : mapCode cfg c = some sym := by
  obtain ⟨-, hnd, -, -⟩ := pairsWf_iff.1 (config_pairs_wf hc)
  rw [mapCode_eq_find, find?_code_of_mem hnd h]
  rfl

theorem mapCode_eq_some_iff (hc : cfg.wf = true) : mapCode cfg c = some sym ↔ (c, sym) ∈ cfg.mapTable.pairs :=
  ⟨mapCode_mem, mapCode_of_mem hc⟩

theorem romRead_of_mem (hc : cfg.wf = true) (h : (c, sym) ∈ cfg.mapTable.pairs) : romRead cfg c = 1#1 ++ sym := by
  obtain ⟨-, hnd, -, -⟩ := pairsWf_iff.1 (config_pairs_wf hc)
  rw [romRead, find?_code_of_mem hnd h]

theorem romRead_of_not_mem (h : ∀ sym : SymCode, (c, sym) ∉ cfg.mapTable.pairs) : romRead cfg c = 0 := by
  have hfind : (cfg.mapTable.pairs.find? fun p => p.1 == c) = none :=
    List.find?_eq_none.2 fun p hp hcode => h p.2 (eq_of_beq hcode ▸ hp)
  rw [romRead, hfind]

/-! ### How many codes are mapped -/

theorem mapCode_isSome_iff : (mapCode cfg c).isSome = true ↔ c ∈ cfg.mapTable.pairs.map Prod.fst := by
  simp [mapCode_eq_find]

/-- The 256 codes. -/
def allCodes : List Code := (List.range 256).map (BitVec.ofNat 8)

theorem allCodes_nodup : allCodes.Nodup := by
  refine List.Nodup.map_on (fun i hi j hj hij => ?_) List.nodup_range
  have hlt := List.mem_range.1 hi
  have hlt' := List.mem_range.1 hj
  bv_omega

theorem mem_allCodes (c : Code) : c ∈ allCodes :=
  List.mem_map.2 ⟨c.toNat, List.mem_range.2 c.isLt, by simp⟩

/-- The mapped codes among the 256 are the codes of the table's pairs, each once. -/
theorem filter_mapped_perm (hc : cfg.wf = true) :
    (allCodes.filter fun c => (mapCode cfg c).isSome).Perm (cfg.mapTable.pairs.map Prod.fst) := by
  obtain ⟨-, hnd, -, -⟩ := pairsWf_iff.1 (config_pairs_wf hc)
  refine (List.perm_ext_iff_of_nodup (allCodes_nodup.filter _) hnd).2 fun c => ?_
  rw [List.mem_filter, mapCode_isSome_iff]
  exact and_iff_right (mem_allCodes c)

theorem countP_mapped (hc : cfg.wf = true) : (allCodes.countP fun c => (mapCode cfg c).isSome) = 12 := by
  obtain ⟨hlen, -, -, -⟩ := pairsWf_iff.1 (config_pairs_wf hc)
  rw [List.countP_eq_length_filter, (filter_mapped_perm hc).length_eq, List.length_map, hlen]

theorem countP_unmapped (hc : cfg.wf = true) : (allCodes.countP fun c => (mapCode cfg c).isNone) = 244 := by
  have hsplit := allCodes.length_eq_countP_add_countP fun c => (mapCode cfg c).isSome
  have hlen : allCodes.length = 256 := by simp [allCodes]
  have hmapped := countP_mapped hc
  simp only [Bool.not_eq_true, Option.isSome_eq_false_iff, Bool.decide_eq_true] at hsplit
  omega

/-- Settles O25: MAP reads the one pair of its code, and the codes of the twelve pairs are the mapped ones. -/
theorem mapIsTheCommandTable : Obligations.MapIsTheCommandTable := by
  refine fun cfg hc => ⟨fun c sym => mapCode_eq_some_iff hc, fun c sym => romRead_of_mem hc, fun c => romRead_of_not_mem,
    ?_, ?_⟩
  · simpa only [allCodes, List.countP_map, Function.comp_def] using countP_mapped hc
  · simpa only [allCodes, List.countP_map, Function.comp_def] using countP_unmapped hc

end Sys2Proof.Machine
end

section
/-! An EDGE that completes a frame: the decoder is back at the start, and MAP alone decides whether the gate is called
(41_command_mapper.md R143; 43_decoder_loop.md R186). -/

namespace Sys2Proof.Machine

/-- The outcome Symbol goes to MAP, with nothing of the frame left in the decoder registers. -/
theorem edgeEffect_of_symbol {s : State} (ho : s.outValid = false) (hp : s.prevValid = true) {ts : Timestamp}
    (hsym : (decodeEdge ts s).out = .symbol) (now : Instant) :
    edgeEffect ts now s =
      mapThenGate now (decodeEdge ts s).code ((s.consumeEdge ts).writeDecoder .shIdle 0 0) := by
  have hback : decodeEdge ts s = foldBack .symbol (decodeEdge ts s).code := by
    rw [← hsym]
    exact pdStep_foldBack (hsym.trans_ne PdOut.noConfusion)
  rw [edgeEffect_of_primed ho hp, State.afterDecode, hback]
  rfl

/-- A code that MAP does not know never reaches the gate. -/
theorem mapThenGate_of_unmapped {s : State} {code : Code} (h : mapCode s.cfg code = none) (now : Instant) :
    mapThenGate now code s = s.record .unmapped code := by
  rw [mapThenGate, h]

/-- Settles O35: after the writes of the consumed edge and of PulseDecoder, only the trace entry is left to make. -/
theorem unmappedCodeIsDropped : Obligations.UnmappedCodeIsDropped := by
  rintro ts now s r ho hp rfl hsym hmap
  have hunmapped := mapThenGate_of_unmapped (s := (s.consumeEdge ts).writeDecoder .shIdle 0 0) hmap now
  exact congrArg Host.Outcome.next ((edgeEffect_of_symbol ho hp hsym now).trans hunmapped)

end Sys2Proof.Machine
end

section
/-! DebounceGate's quiet window (42_debounce_gate.md R161 to R166): which condition makes ACCEPT answer which of its forms, what a
second call finds, and the EDGE whose symbol falls inside the window. -/

namespace Sys2Proof.Machine

variable {now : Instant} {s t : State}

/-! ### Each answer of ACCEPT, with its condition -/

theorem setLastValid_of_valid (hv : s.lastValid = true) : s.setLastValid = s := by
  rw [State.setLastValid, ← hv]

theorem accept_of_first (hv : s.lastValid = false) (now : Instant) (sym : SymCode) :
    accept now sym s = (.accepted, (s.setLastAcc now).setLastValid) := by
  rcases accept_cases now sym s with ⟨-, e⟩ | ⟨hv', -⟩ | ⟨hv', -⟩
  · exact e
  all_goals exact absurd (hv.symm.trans hv') (by decide)

theorem accept_of_regression (hv : s.lastValid = true) (hlt : now.toNat < s.lastAcc.toNat) (sym : SymCode) :
    accept now sym s = (.timeRegression, s) := by
  rcases accept_cases now sym s with ⟨hv' | hend, -⟩ | ⟨-, hle, -⟩ | ⟨-, -, e⟩
  · exact absurd (hv.symm.trans hv') (by decide)
  · omega
  · omega
  · exact e

theorem accept_of_windowOver (hv : s.lastValid = true) (hend : s.lastAcc.toNat + s.cfg.qw.toNat ≤ now.toNat) (sym : SymCode) :
    accept now sym s = (.accepted, s.setLastAcc now) := by
  rcases accept_cases now sym s with ⟨-, e⟩ | ⟨-, -, hin, -⟩ | ⟨-, hlt, -⟩
  · rw [e, setLastValid_of_valid (s := s.setLastAcc now) hv]
  · omega
  · omega

theorem accept_of_inWindow (hv : s.lastValid = true) (hle : s.lastAcc.toNat ≤ now.toNat)
    (hin : now.toNat < s.lastAcc.toNat + s.cfg.qw.toNat) (sym : SymCode) : accept now sym s = (.debounced, s) := by
  rcases accept_cases now sym s with ⟨hv' | hend, -⟩ | ⟨-, -, -, e⟩ | ⟨-, hlt, -⟩
  · exact absurd (hv.symm.trans hv') (by decide)
  · omega
  · exact e
  · omega

/-- Settles O27: the two sides of the window by their distances; `now = LAST_ACC` and `QW = 0` are its two ends. -/
theorem gateAcceptsByTheQuietWindow : Obligations.GateAcceptsByTheQuietWindow := by
  refine ⟨fun now sym s => ⟨fun hv => accept_of_first hv now sym, fun hv hlt => accept_of_regression hv hlt sym,
    fun hv hle hd => accept_of_windowOver hv (by omega) sym, fun hv hle hd => accept_of_inWindow hv hle (by omega) sym,
    fun hv hq => ?_, fun hv hq hle => ?_⟩, fun sym s hq hv ha => ⟨?_, ?_⟩⟩
  · have hpos : 0 < s.cfg.qw.toNat := by bv_omega
    exact accept_of_inWindow hv le_rfl (by omega) sym
  · exact accept_of_windowOver hv (by simpa [hq] using hle) sym
  · exact accept_of_inWindow hv (by rw [ha]; decide) (by rw [ha, hq]; decide) sym
  · exact accept_of_windowOver hv (by rw [ha, hq]; decide) sym

/-! ### What ACCEPT reads and writes -/

theorem accept_frame (now : Instant) (sym : SymCode) (s : State) :
    (accept now sym s).2 =
      { s with lastAcc := (accept now sym s).2.lastAcc, lastValid := (accept now sym s).2.lastValid } := by
  rcases accept_cases now sym s with ⟨-, e⟩ | ⟨-, -, -, e⟩ | ⟨-, -, e⟩ <;> rw [e]
  rfl

/-- Settles O28: the answer is `gateResult`'s, and the gate registers are `now`'s or the old ones according to it. -/
theorem gateIsSymbolAgnostic : Obligations.GateIsSymbolAgnostic := by
  refine ⟨fun now sym sym' s s' hacc hvalid hqw => ?_, accept_frame⟩
  simp only [accept, hacc, hvalid, hqw]
  cases gateResult s'.cfg.qw s'.lastValid s'.lastAcc now with
  | accepted => exact ⟨rfl, rfl, rfl⟩
  | debounced => exact ⟨rfl, hacc, hvalid⟩
  | timeRegression => exact ⟨rfl, hacc, hvalid⟩

/-! ### Two calls -/

theorem of_accept_eq_accepted {sym : SymCode} (h : accept now sym s = (.accepted, t)) :
    t = (s.setLastAcc now).setLastValid := by
  rcases accept_cases now sym s with ⟨-, e⟩ | ⟨-, -, -, e⟩ | ⟨-, -, e⟩ <;> rw [e] at h
  · exact (Prod.mk.inj h).2.symm
  · cases h
  · cases h

theorem of_accept_eq_debounced {sym : SymCode} (h : accept now sym s = (.debounced, t)) :
    t = s ∧ s.lastValid = true ∧ s.lastAcc.toNat ≤ now.toNat := by
  rcases accept_cases now sym s with ⟨-, e⟩ | ⟨hv, hle, -, e⟩ | ⟨-, -, e⟩ <;> rw [e] at h
  · cases h
  · exact ⟨(Prod.mk.inj h).2.symm, hv, hle⟩
  · cases h

/-- At or after the last acceptance, exactly the calls past its quiet window accept. -/
theorem accept_eq_accepted_iff (hv : s.lastValid = true) (hle : s.lastAcc.toNat ≤ now.toNat) (sym : SymCode) :
    (accept now sym s).1 = .accepted ↔ s.lastAcc.toNat + s.cfg.qw.toNat ≤ now.toNat := by
  refine ⟨fun h => ?_, fun hend => congrArg Prod.fst (accept_of_windowOver hv hend sym)⟩
  by_contra hin
  rw [accept_of_inWindow hv hle (not_le.1 hin) sym] at h
  cases h

/-- Settles O29: an acceptance at `t0` moves the window to `t0`, and a rejection leaves it where it was. -/
theorem twoConsecutiveGateCalls : Obligations.TwoConsecutiveGateCalls := by
  refine ⟨fun t0 t1 sym sym' s s1 h hle => ?_, fun t0 t1 sym sym' s s1 h hle => ?_, rfl⟩
  · obtain rfl := of_accept_eq_accepted h
    refine ⟨fun hd => congrArg Prod.fst (accept_of_inWindow rfl hle ?_ sym'),
      fun hd => congrArg Prod.fst (accept_of_windowOver rfl ?_ sym')⟩
    · exact (Nat.sub_lt_iff_lt_add' hle).1 hd
    · exact (Nat.le_sub_iff_add_le' hle).1 hd
  · obtain ⟨rfl, hv, hle0⟩ := of_accept_eq_debounced h
    rw [accept_eq_accepted_iff hv (hle0.trans hle)]
    omega

/-! ### A mapped symbol inside the window -/

theorem mapThenGate_of_mapped {code : Code} {sym : SymCode} (h : mapCode s.cfg code = some sym) (now : Instant) :
    mapThenGate now code s = gateSymbol now sym s := by
  rw [mapThenGate, h]

theorem mapThenGate_of_inWindow {code : Code} {sym : SymCode} (hmap : mapCode s.cfg code = some sym)
    (hv : s.lastValid = true) (hle : s.lastAcc.toNat ≤ now.toNat) (hin : now.toNat < s.lastAcc.toNat + s.cfg.qw.toNat) :
    mapThenGate now code s = s.record .debounced (symVal sym) := by
  rw [mapThenGate_of_mapped hmap, gateSymbol, accept_of_inWindow hv hle hin]

/-- Settles O37: the writes of the consumed edge and of PulseDecoder leave the window where it was, so the gate still rejects. -/
theorem debouncedSymbolIsDropped : Obligations.DebouncedSymbolIsDropped := by
  rintro ts now s r sym ho hp rfl hsym hmap hv hle hd
  have hin : now.toNat < s.lastAcc.toNat + s.cfg.qw.toNat := by omega
  have hdropped := mapThenGate_of_inWindow (s := (s.consumeEdge ts).writeDecoder .shIdle 0 0) hmap hv hle hin
  exact congrArg Host.Outcome.next ((edgeEffect_of_symbol ho hp hsym now).trans hdropped)

end Sys2Proof.Machine
end

section
/-! The EDGE that finds a symbol pending, the first EDGE, and the EDGE whose symbol the gate accepts: the whole next state of each
(43_decoder_loop.md R181, R183, R187). -/

namespace Sys2Proof.Machine

/-- Settles O32: the pending symbol is tested before anything else. -/
theorem lostEdgeWritesNoRegister : Obligations.LostEdgeWritesNoRegister :=
  fun ts now _ ho => ⟨congrArg not ho, congrArg Host.Outcome.next (edgeEffect_of_pending ho ts now)⟩

/-- With the polarity checked, a space is never taken for the header mark, whatever its length. -/
theorem pdShIdle_of_space {cfg : Config} (hpol : cfg.polCheck = true) (iv : Timestamp) :
    pdShIdle cfg iv false = errTimingResult := by
  have hrole : ¬ roleOk cfg false true = true := by simp [roleOk, hpol]
  rw [pdShIdle_eq, if_neg fun h => hrole h.1]

/-- Settles O33: the first edge goes to no PD_STEP, and the one it would have gone to sees a space in `SH_IDLE`. -/
theorem firstEdgePrimes : Obligations.FirstEdgePrimes := by
  refine ⟨fun ts now s ho hp => congrArg Host.Outcome.next (edgeEffect_of_unprimed ho hp ts now), fun cfg iv hpol hinit => ?_⟩
  rw [hinit]
  exact pdShIdle_of_space hpol iv

/-- The gate accepts where it has not accepted yet, and from the end of the quiet window on (42_debounce_gate.md R161). -/
theorem accept_of_open {now : Instant} {s : State}
    (hopen : s.lastValid = false ∨ s.lastAcc.toNat + s.cfg.qw.toNat ≤ now.toNat) (sym : SymCode) :
    accept now sym s = (.accepted, (s.setLastAcc now).setLastValid) := by
  rcases hopen with hv | hend
  · exact accept_of_first hv now sym
  · cases hv : s.lastValid with
    | false => exact accept_of_first hv now sym
    | true => rw [accept_of_windowOver hv hend, setLastValid_of_valid (s := s.setLastAcc now) hv]

/-- A mapped symbol that finds the gate open is written to the output register. -/
theorem mapThenGate_of_open {now : Instant} {s : State} {code : Code} {sym : SymCode} (hmap : mapCode s.cfg code = some sym)
    (hopen : s.lastValid = false ∨ s.lastAcc.toNat + s.cfg.qw.toNat ≤ now.toNat) :
    mapThenGate now code s =
      ((((s.setLastAcc now).setLastValid).setOutSym sym).setOutValid).record .accepted (symVal sym) := by
  rw [mapThenGate_of_mapped hmap, gateSymbol, accept_of_open hopen]

/-- Settles O36: the consumed edge and PulseDecoder leave the gate as open as it was; the symbol it lets through is then
pending, so the next EDGE is lost. -/
theorem acceptedSymbolWaitsForTheSink : Obligations.AcceptedSymbolWaitsForTheSink := by
  rintro ts now s r sym ho hp rfl hsym hmap hgate
  have hopen : s.lastValid = false ∨ s.lastAcc.toNat + s.cfg.qw.toNat ≤ now.toNat :=
    hgate.imp_right fun hover => by omega
  have haccepted := mapThenGate_of_open (s := (s.consumeEdge ts).writeDecoder .shIdle 0 0) hmap hopen
  refine ⟨_, congrArg Host.Outcome.next ((edgeEffect_of_symbol ho hp hsym now).trans haccepted), rfl,
    fun ts' now' => congrArg Host.Outcome.next (edgeEffect_of_pending ?_ ts' now')⟩
  rfl

end Sys2Proof.Machine
end

section
/-! Which decoder registers an EDGE writes: a consumed one inverts `POL`, and PD_STEP's registers are PD_STEP's results where
it is called (43_decoder_loop.md R184, R185). -/

namespace Sys2Proof.Machine

/-- Past the first edge, PulseDecoder's registers are what PD_STEP returned: neither MAP nor the gate writes them. -/
theorem edgeEffect_decoder_of_primed {s : State} (ho : s.outValid = false) (hp : s.prevValid = true) (ts : Timestamp)
    (now : Instant) :
    (edgeEffect ts now s).dstate = (decodeEdge ts s).dstate ∧ (edgeEffect ts now s).bitcnt = (decodeEdge ts s).bitcnt ∧
      (edgeEffect ts now s).acc = (decodeEdge ts s).acc := by
  rcases edgeEffect_cases ts now s with ⟨hpend, -⟩ | ⟨-, hfirst, -⟩ | ⟨-, -, ⟨-, d, v, -, e⟩ | ⟨-, -, e⟩ |
    ⟨sym, -, -, ⟨-, e⟩ | ⟨-, -, -, e⟩ | ⟨-, -, e⟩⟩⟩
  · exact absurd (ho.symm.trans hpend) (by decide)
  · exact absurd (hp.symm.trans hfirst) (by decide)
  all_goals rw [e]; exact ⟨rfl, rfl, rfl⟩

/-- A lost edge and the first edge call no PD_STEP. -/
theorem edgeEffect_decoder_of_undecoded {s : State} (h : s.outValid = true ∨ s.prevValid = false) (ts : Timestamp)
    (now : Instant) :
    (edgeEffect ts now s).dstate = s.dstate ∧ (edgeEffect ts now s).bitcnt = s.bitcnt ∧
      (edgeEffect ts now s).acc = s.acc := by
  cases ho : s.outValid with
  | true => rw [edgeEffect_of_pending ho]; exact ⟨rfl, rfl, rfl⟩
  | false =>
    have hp : s.prevValid = false := by simpa [ho] using h
    rw [edgeEffect_of_unprimed ho hp]
    exact ⟨rfl, rfl, rfl⟩

theorem deliverEffect_decoder (s : State) :
    (deliverEffect s).dstate = s.dstate ∧ (deliverEffect s).bitcnt = s.bitcnt ∧ (deliverEffect s).acc = s.acc := by
  rcases deliverEffect_cases s with ⟨-, e⟩ | ⟨-, e⟩ <;> rw [e] <;> exact ⟨rfl, rfl, rfl⟩

/-- Settles O39: every consumed edge toggles `POL`, a lost one only makes its entry, and the role is the `POL` from before. -/
theorem polarityTogglesOnConsumedEdges : Obligations.PolarityTogglesOnConsumedEdges := by
  intro ts now s t h
  obtain rfl : edgeEffect ts now s = t := Host.Outcome.next.inj h
  refine ⟨fun ho => ?_, fun ho => ?_, fun ho hp => ?_⟩
  · obtain ⟨-, hpol, -⟩ := edgeEffect_consumed ho ts now
    exact hpol
  · rw [edgeEffect_of_pending ho, record_pol]
  · obtain ⟨hdstate, -⟩ := edgeEffect_decoder_of_primed ho hp ts now
    exact hdstate

/-- Settles O40: an EDGE by whether it calls PD_STEP, and NOP and DELIVER by what they write instead. -/
theorem decoderRegistersFollowPdStep : Obligations.DecoderRegistersFollowPdStep := by
  refine ⟨fun ts now s t h => ?_, ?_⟩
  · obtain rfl : edgeEffect ts now s = t := Host.Outcome.next.inj h
    exact ⟨fun ho hp => edgeEffect_decoder_of_primed ho hp ts now, fun hund => edgeEffect_decoder_of_undecoded hund ts now⟩
  · rintro i s t h (rfl | rfl)
    · obtain rfl : s.record .idle 0 = t := Host.Outcome.next.inj h
      exact ⟨rfl, rfl, rfl⟩
    · obtain rfl : deliverEffect s = t := Host.Outcome.next.inj h
      exact deliverEffect_decoder s

end Sys2Proof.Machine
end

section
/-! DELIVER with and without a pending symbol, and NOPs in a row (43_decoder_loop.md R188, R189). -/

namespace Sys2Proof.Machine

theorem deliverEffect_of_pending {s : State} (ho : s.outValid = true) :
    deliverEffect s = (s.emit s.outSym).clearOutValid.record .delivered (symVal s.outSym) := if_pos ho

theorem deliverEffect_of_empty {s : State} (ho : s.outValid = false) : deliverEffect s = s.record .idle 0 :=
  if_neg (Bool.eq_false_iff.1 ho)

/-- Settles O45: the first DELIVER leaves nothing pending, so the second finds nothing to hand over. -/
theorem deliverHandsOverThePendingSymbol : Obligations.DeliverHandsOverThePendingSymbol := by
  refine ⟨fun s ho => congrArg Host.Outcome.next (deliverEffect_of_pending ho),
    fun s ho => congrArg Host.Outcome.next (deliverEffect_of_empty ho), fun s t u ho ht hu => ?_⟩
  obtain rfl : deliverEffect s = t := Host.Outcome.next.inj ht
  obtain rfl : deliverEffect (deliverEffect s) = u := Host.Outcome.next.inj hu
  rw [deliverEffect_of_pending ho, deliverEffect_of_empty rfl]
  rfl

/-- NOPs at the head of a running machine's stream, by induction on how many: each makes its entry and goes on running. -/
theorem run_nops (rest : List TxWord) (n : Nat) :
    ∀ s : State, s.Running → s.input = List.replicate n (encode .nop) ++ rest →
      run n s = .next { s with input := rest, trace := s.trace ++ List.replicate n ⟨.idle, 0⟩ } := by
  induction n with
  | zero =>
    rintro s - rfl
    simp
  | succ n ih =>
    intro s hs hi
    have hstep := step_of_encode hs (i := .nop) (rest := List.replicate n (encode .nop) ++ rest) hi
    rw [run_of_next hstep, ih]
    · simp [List.replicate_succ]
    · exact hs
    · rfl

/-- Settles O47: one NOP is its entry alone, and `run_nops` is the run of `n`. -/
theorem nopsLeaveTheRegistersUnchanged : Obligations.NopsLeaveTheRegistersUnchanged :=
  ⟨fun _ => rfl, fun n s rest => run_nops rest n s⟩

end Sys2Proof.Machine
end

section
/-! PulseDecoder with the polarity unchecked (70_reset_and_hazards.md R272): an idle space in the header-mark band moves it to
`SH_MARK`, where the real header mark is rejected, and no later interval of the frame is long enough for a header mark. -/

namespace Sys2Proof.Machine

variable {cfg : Config} {m : Nominal} {iv : Timestamp}

/-! ### The role does not count -/

theorem roleOk_of_unchecked (hpol : cfg.polCheck = false) (isMark want : Bool) : roleOk cfg isMark want = true :=
  roleOk_iff.2 (.inl hpol)

theorem isMarkOf_of_unchecked (hpol : cfg.polCheck = false) (iv : Timestamp) (isMark : Bool) (m : Nominal) :
    isMarkOf cfg iv isMark m = inBand cfg iv m := by
  rw [isMarkOf, roleOk_of_unchecked hpol, Bool.true_and]

theorem isSpaceOf_of_unchecked (hpol : cfg.polCheck = false) (iv : Timestamp) (isMark : Bool) (m : Nominal) :
    isSpaceOf cfg iv isMark m = inBand cfg iv m := by
  rw [isSpaceOf, roleOk_of_unchecked hpol, Bool.true_and]

/-- Each position reads the role in its role tests alone. -/
theorem pdStep_role_irrelevant (hpol : cfg.polCheck = false) (d : DState) (n : BitVec 4) (a : BitVec 16) (iv : Timestamp)
    (isMark isMark' : Bool) : pdStep cfg d n a iv isMark = pdStep cfg d n a iv isMark' := by
  cases d with
  | shIdle => simp only [pdStep, pdShIdle, isMarkOf_of_unchecked hpol]
  | shMark => simp only [pdStep, pdShMark, isSpaceOf_of_unchecked hpol]
  | rbMark => simp only [pdStep, pdRbMark, isMarkOf_of_unchecked hpol]
  | rbSpace => simp only [pdStep, pdRbSpace, isSpaceOf_of_unchecked hpol]

/-! ### A header mark apart from every other interval -/

/-- The header mark's band has no tick in common with another band. -/
def HdrMarkApart (cfg : Config) : Prop := ∀ m : Nominal, m ≠ .hdrMark → cfg.bandsDisjoint .hdrMark m = true

theorem not_hdrMark_of_inBand (hapart : HdrMarkApart cfg) (hm : m ≠ .hdrMark) (h : inBand cfg iv m = true) :
    inBand cfg iv .hdrMark = false := by
  by_contra hhdr
  rw [not_inBand_of_disjoint (hapart m hm) (by simpa using hhdr)] at h
  cases h

theorem pdStep_shIdle_of_hdrMark (hpol : cfg.polCheck = false) (h : inBand cfg iv .hdrMark = true) (n : BitVec 4)
    (a : BitVec 16) (isMark : Bool) : pdStep cfg .shIdle n a iv isMark = goOn .shMark 0 0 :=
  (pdShIdle_eq cfg iv isMark).trans (if_pos ⟨roleOk_of_unchecked hpol _ _, h⟩)

theorem pdStep_shIdle_of_not_hdrMark (h : inBand cfg iv .hdrMark = false) (n : BitVec 4) (a : BitVec 16) (isMark : Bool) :
    pdStep cfg .shIdle n a iv isMark = errTimingResult :=
  (pdShIdle_eq cfg iv isMark).trans (if_neg fun hmark => Bool.eq_false_iff.1 h hmark.2)

/-- After a header mark, a second one is neither space that `SH_MARK` looks for. -/
theorem pdStep_shMark_of_hdrMark (hapart : HdrMarkApart cfg) (h : inBand cfg iv .hdrMark = true) (n : BitVec 4)
    (a : BitVec 16) (isMark : Bool) : pdStep cfg .shMark n a iv isMark = errTimingResult := by
  have hspace : inBand cfg iv .hdrSpace = false := not_inBand_of_disjoint (hapart _ Nominal.noConfusion) h
  have hrpt : inBand cfg iv .rptSpace = false := not_inBand_of_disjoint (hapart _ Nominal.noConfusion) h
  simp [pdStep, pdShMark_eq, hspace, hrpt]

/-- In `SH_IDLE`, intervals of which none is a header mark give ErrTiming each, by induction on them. -/
theorem pdRun_shIdle_of_not_hdrMark (ivs : List (Bool × Timestamp)) (h : ∀ p ∈ ivs, inBand cfg p.2 .hdrMark = false) :
    pdRun cfg .shIdle 0 0 ivs = List.replicate ivs.length errTimingResult := by
  induction ivs with
  | nil => rfl
  | cons p rest ih =>
    rw [pdRun, pdStep_shIdle_of_not_hdrMark (h p (.head _))]
    exact congrArg (errTimingResult :: ·) (ih fun q hq => h q (.tail _ hq))

/-- An idle space and a header mark, both in the header mark's band: the idle space is taken for the header mark, the header
mark is rejected, and the decoder is back in `SH_IDLE`. -/
theorem pdRun_idle_hdrMark (hpol : cfg.polCheck = false) (hapart : HdrMarkApart cfg) {idle hdr : Timestamp}
    (hidle : inBand cfg idle .hdrMark = true) (hhdr : inBand cfg hdr .hdrMark = true) (isMark isMark' : Bool)
    (rest : List (Bool × Timestamp)) :
    pdRun cfg .shIdle 0 0 ((isMark, idle) :: (isMark', hdr) :: rest) =
      goOn .shMark 0 0 :: errTimingResult :: pdRun cfg .shIdle 0 0 rest := by
  rw [pdRun, pdStep_shIdle_of_hdrMark hpol hidle, pdRun]
  simp only [goOn, pdStep_shMark_of_hdrMark hapart hhdr]
  rfl

/-! ### The frame after such an idle space -/

/-- The slots of a frame after its header mark. -/
def slotsAfterHdrMark (c k : Code) : List Slot := (false, .hdrSpace) :: (byteSlots c ++ byteSlots k)

theorem frameSlots_eq_cons (c k : Code) : frameSlots c k = (true, .hdrMark) :: slotsAfterHdrMark c k := rfl

theorem bitSlots_ne_hdrMark {b : Bool} {slot : Slot} (h : slot ∈ bitSlots b) : slot.2 ≠ .hdrMark := by
  revert slot
  cases b <;> decide

theorem byteSlots_ne_hdrMark {c : Code} {slot : Slot} (h : slot ∈ byteSlots c) : slot.2 ≠ .hdrMark := by
  obtain ⟨_, -, hbit⟩ := List.mem_flatMap.1 h
  exact bitSlots_ne_hdrMark hbit

theorem slotsAfterHdrMark_ne_hdrMark {c k : Code} {slot : Slot} (h : slot ∈ slotsAfterHdrMark c k) :
    slot.2 ≠ .hdrMark := by
  rcases List.mem_cons.1 h with rfl | hbyte
  · exact Nominal.noConfusion
  · exact (List.mem_append.1 hbyte).elim byteSlots_ne_hdrMark byteSlots_ne_hdrMark

/-- Intervals in the bands of other slots are no header marks. -/
theorem not_hdrMark_of_inBands (hapart : HdrMarkApart cfg) {slots : List Slot} {ivs : List Timestamp}
    (h : inBands cfg slots ivs) (hslots : ∀ slot ∈ slots, slot.2 ≠ .hdrMark) :
    ∀ iv ∈ ivs, inBand cfg iv .hdrMark = false := by
  induction h with
  | nil => simp
  | cons hiv _ ih =>
    obtain ⟨hslot, hrest⟩ := List.forall_mem_cons.1 hslots
    exact List.forall_mem_cons.2 ⟨not_hdrMark_of_inBand hapart hslot hiv, ih hrest⟩

/-- The frame is lost under any labelling: its header mark is rejected in `SH_MARK`, every interval after it in `SH_IDLE`. -/
theorem pdRun_frame_after_idle (hpol : cfg.polCheck = false) (hapart : HdrMarkApart cfg) {c k : Code} {idle : Timestamp}
    (hidle : inBand cfg idle .hdrMark = true) {ivs : List Timestamp} (hivs : inBands cfg (frameSlots c k) ivs)
    {labels : List Bool} (hlabels : labels.length = 34) (isMark : Bool) :
    pdRun cfg .shIdle 0 0 ((isMark, idle) :: labels.zip ivs) = goOn .shMark 0 0 :: List.replicate 34 errTimingResult := by
  have hlen : ivs.length = 34 := (List.Forall₂.length_eq hivs).symm.trans (frameSlots_length c k)
  rw [frameSlots_eq_cons] at hivs
  obtain ⟨hdr, rest, hhdr, hrest, rfl⟩ := List.forall₂_cons_left_iff.1 hivs
  obtain ⟨label, labels, rfl⟩ := List.exists_cons_of_length_eq_add_one hlabels
  have hnone := not_hdrMark_of_inBands hapart hrest fun _ => slotsAfterHdrMark_ne_hdrMark
  have hzip : (labels.zip rest).length = 33 := by
    rw [List.length_zip, Nat.succ.inj hlabels, Nat.succ.inj hlen, Nat.min_self]
  rw [List.zip_cons_cons, pdRun_idle_hdrMark hpol hapart hidle hhdr,
    pdRun_shIdle_of_not_hdrMark _ fun p hp => hnone p.2 (List.of_mem_zip hp).2, hzip]
  rfl

/-- The reference `CONFIG` with the polarity unchecked. -/
abbrev uncheckedReference : Config := { Config.reference with polCheck := false }

theorem uncheckedReference_hdrMarkApart : HdrMarkApart uncheckedReference := by
  intro m hm
  cases m with
  | hdrMark => exact absurd rfl hm
  | _ => decide

/-- Settles O23: the role tests pass, and the reference band of the header mark is apart from the five others. -/
theorem uncheckedPolarityTakesIdleForHeader : Obligations.UncheckedPolarityTakesIdleForHeader := by
  obtain ⟨-, -, hHdrMark, -⟩ := referenceBandTable
  have hband {iv : Timestamp} (hlo : 6750 ≤ iv.toNat) (hhi : iv.toNat ≤ 11250) :
      inBand uncheckedReference iv .hdrMark = true := (inBand_iff_of_band hHdrMark).2 ⟨hlo, hhi⟩
  refine ⟨fun cfg d n a iv hpol => pdStep_role_irrelevant hpol d n a iv true false,
    fun idle hdr hlo hhi hlo' hhi' => ?_, fun c k idle isMark labels ivs hlo hhi hivs hlabels => ?_, rfl⟩
  · exact pdRun_idle_hdrMark rfl uncheckedReference_hdrMarkApart (hband hlo hhi) (hband hlo' hhi') false true []
  · exact pdRun_frame_after_idle rfl uncheckedReference_hdrMarkApart (hband hlo hhi) hivs hlabels isMark

end Sys2Proof.Machine
end

section
/-! RESET against construction (70_reset_and_hazards.md R260): its registers are those of a machine just constructed under the
same `CONFIG`, which it keeps. -/

namespace Sys2Proof.Machine

theorem exec_reset (s : State) : exec .reset s = .next (s.resetRegisters.record .reset 0) := rfl

theorem exec_reset_regs {s t : State} (h : exec .reset s = .next t) :
    t.regs = (State.construct s.cfg).regs ∧ t.cfg = s.cfg := by
  rw [exec_reset] at h
  obtain rfl := Host.Outcome.next.inj h
  exact ⟨rfl, rfl⟩

/-- Settles O48: the registers after RESET depend on `CONFIG` alone, so a second RESET leaves the same ones. -/
theorem resetIsConstruction : Obligations.ResetIsConstruction := by
  refine ⟨exec_reset, fun s t u ht hu => ?_⟩
  obtain ⟨hregs, hcfg⟩ := exec_reset_regs ht
  obtain ⟨hregs', -⟩ := exec_reset_regs hu
  rw [hregs', hregs, hcfg]

end Sys2Proof.Machine
end

section
/-! Words and transactions (30_encoding.md R72, R79(a), R81): the round trip of decoder and encoder, and the one row of the opcode
map that a legal word matches. -/

namespace Sys2Proof

/-- Settles O3: a word decodes to a transaction exactly when it is that transaction's word, and `encode i` is the word of `i`. -/
theorem decodeEncodeAgree : Obligations.DecodeEncodeAgree := decode_encode

/-- Settles O4: the same equivalence, read from the word that decodes. -/
theorem encodeDecodeAgree : Obligations.EncodeDecodeAgree := fun _ _ h => (decode_eq_legal_iff.1 h).symm

theorem matchesWord_of_fullMask {mnemonic : String} {bits w : TxWord} :
    OpcodeRow.matchesWord ⟨mnemonic, bits, 0xFFFFFFFFFFFFFFFFFFFFFFFFFFFFFFFF#128⟩ w = true ↔ w = bits := by
  rw [OpcodeRow.matchesWord, beq_iff_eq]
  exact Eq.congr_left BitVec.and_allOnes

theorem matchesWord_edgeRow_iff {mnemonic : String} {w : TxWord} :
    OpcodeRow.matchesWord
        ⟨mnemonic, 0x40000000000000000000000000000000#128, 0xFFFFFFFF000000000000000000000000#128⟩ w = true ↔
      ∃ ts now, decode w = .legal (.edge ts now) := by
  rw [OpcodeRow.matchesWord, beq_iff_eq, matches_edgeRow_iff]
  constructor
  · rintro ⟨ho, hr⟩
    exact ⟨_, _, decode_eq_edge_iff.2 ⟨ho, hr, rfl, rfl⟩⟩
  · rintro ⟨ts, now, h⟩
    obtain ⟨ho, hr, -, -⟩ := decode_eq_edge_iff.1 h
    exact ⟨ho, hr⟩

/-- Which rows match a word is decided by what it decodes to: an illegal word has none, a legal one that of its transaction. -/
theorem filter_matchesWord (w : TxWord) :
    (opcodeTable.filter fun r => r.matchesWord w) =
      match decode w with
      | .legal i => opcodeTable.filter fun r => r.mnemonic == mnemonicOf i
      | .illegal _ => [] := by
  obtain ⟨hrows, -⟩ := wordsDecodeByTheOpcodeMap
  obtain ⟨hnop, -, -, hdeliver, hreset⟩ := hrows w
  simp only [opcodeTable, List.filter_cons, List.filter_nil, matchesWord_of_fullMask, matchesWord_edgeRow_iff, hnop, hdeliver,
    hreset]
  cases decode w with
  | illegal why => simp
  | legal i => cases i <;> simp [mnemonicOf]

/-- Settles O5: an illegal word matches no row, and each transaction has one row. -/
theorem legalWordsAreThoseThatDecode : Obligations.LegalWordsAreThoseThatDecode := by
  intro w
  rw [wordLegal, filter_matchesWord]
  cases decode w with
  | illegal why => simp
  | legal i => cases i <;> simp [opcodeTable, mnemonicOf]

/-- Settles O1: each word is decoded. -/
theorem specWordsDecodeAsWritten : Obligations.SpecWordsDecodeAsWritten := by
  unfold Obligations.SpecWordsDecodeAsWritten
  decide

end Sys2Proof
end

section
/-! What one EDGE can do, by what becomes of the gate: it is told apart from PulseDecoder's own registers, so that what the gate,
the output register and `FAULT` keep is said once. -/

namespace Sys2Proof.Machine

/-- `u` differs from `s` at most in the registers that an EDGE writes before the gate: `DSTATE`, `BITCNT`, `ACC`, `PREV_TS`,
`POL`, and `PREV_VALID`, which can only rise (43_decoder_loop.md R182 to R185). -/
structure FrontEndOnly (s u : State) : Prop where
  prevValid : u.prevValid = s.prevValid ∨ s.prevValid = false ∧ u.prevValid = true
  lastAcc : u.lastAcc = s.lastAcc
  lastValid : u.lastValid = s.lastValid
  outValid : u.outValid = s.outValid
  outSym : u.outSym = s.outSym
  cfg : u.cfg = s.cfg
  fault : u.fault = s.fault
  trace : u.trace = s.trace
  delivered : u.delivered = s.delivered
  input : u.input = s.input

theorem frontEndOnly_self (s : State) : FrontEndOnly s s := ⟨.inl rfl, rfl, rfl, rfl, rfl, rfl, rfl, rfl, rfl, rfl⟩

theorem frontEndOnly_afterDecode (ts : Timestamp) (s : State) : FrontEndOnly s (s.afterDecode ts) :=
  ⟨.inl rfl, rfl, rfl, rfl, rfl, rfl, rfl, rfl, rfl, rfl⟩

theorem frontEndOnly_primed {s : State} (hp : s.prevValid = false) (ts : Timestamp) :
    FrontEndOnly s (s.consumeEdge ts).setPrevValid :=
  ⟨.inr ⟨hp, rfl⟩, rfl, rfl, rfl, rfl, rfl, rfl, rfl, rfl, rfl⟩

/-- The dispositions of an EDGE that neither opens the gate nor faults. -/
def quietDispositions : List Disposition :=
  [.lost, .primed, .noSym, .repeatCode, .errTiming, .errChecksum, .unmapped, .debounced]

/-- An EDGE writes its front end, and then the gate accepts, or the time regression is recorded, or only the trace is written.
A lost edge writes no front end (43_decoder_loop.md R180, R181). -/
theorem edgeEffect_gate_cases (ts : Timestamp) (now : Instant) (s : State) :
    ∃ u, FrontEndOnly s u ∧
      ((∃ code sym, mapCode s.cfg code = some sym ∧
          (s.lastValid = false ∨ s.lastAcc.toNat + s.cfg.qw.toNat ≤ now.toNat) ∧
          edgeEffect ts now s =
            ((((u.setLastAcc now).setLastValid).setOutSym sym).setOutValid).record .accepted (symVal sym)) ∨
        (s.lastValid = true ∧ now.toNat < s.lastAcc.toNat ∧ edgeEffect ts now s = u.takeFault .timeRegression) ∨
        (∃ d v, d ∈ quietDispositions ∧ (d = .lost → u = s) ∧ edgeEffect ts now s = u.record d v)) := by
  rcases edgeEffect_cases ts now s with ⟨-, e⟩ | ⟨-, hp, e⟩ | ⟨-, -, ⟨-, d, v, hd, e⟩ | ⟨-, -, e⟩ |
    ⟨sym, -, hmap, ⟨hopen, e⟩ | ⟨-, -, -, e⟩ | ⟨hv, hlt, e⟩⟩⟩
  · exact ⟨s, frontEndOnly_self s, .inr (.inr ⟨.lost, 0, by decide, fun _ => rfl, e⟩)⟩
  · exact ⟨_, frontEndOnly_primed hp ts, .inr (.inr ⟨.primed, 0, by decide, nofun, e⟩)⟩
  · have hquiet : ∀ d ∈ [Disposition.noSym, .repeatCode, .errTiming, .errChecksum], d ∈ quietDispositions ∧ d ≠ .lost := by
      simp [quietDispositions]
    obtain ⟨hquiet, hlost⟩ := hquiet d hd
    exact ⟨_, frontEndOnly_afterDecode ts s, .inr (.inr ⟨d, v, hquiet, fun h => absurd h hlost, e⟩)⟩
  · exact ⟨_, frontEndOnly_afterDecode ts s, .inr (.inr ⟨.unmapped, _, by decide, nofun, e⟩)⟩
  · exact ⟨_, frontEndOnly_afterDecode ts s, .inl ⟨_, sym, hmap, hopen, e⟩⟩
  · exact ⟨_, frontEndOnly_afterDecode ts s, .inr (.inr ⟨.debounced, _, by decide, nofun, e⟩)⟩
  · exact ⟨_, frontEndOnly_afterDecode ts s, .inr (.inl ⟨hv, hlt, e⟩)⟩

/-- No EDGE writes `CONFIG` or `DELIVERED`. -/
theorem edgeEffect_cfg_delivered (ts : Timestamp) (now : Instant) (s : State) :
    (edgeEffect ts now s).cfg = s.cfg ∧ (edgeEffect ts now s).delivered = s.delivered := by
  obtain ⟨u, hu, ⟨code, sym, -, -, e⟩ | ⟨-, -, e⟩ | ⟨d, v, -, -, e⟩⟩ := edgeEffect_gate_cases ts now s <;> rw [e]
  all_goals exact ⟨hu.cfg, hu.delivered⟩

@[simp] theorem edgeEffect_cfg (ts : Timestamp) (now : Instant) (s : State) : (edgeEffect ts now s).cfg = s.cfg :=
  (edgeEffect_cfg_delivered ts now s).1

@[simp] theorem edgeEffect_delivered (ts : Timestamp) (now : Instant) (s : State) :
    (edgeEffect ts now s).delivered = s.delivered := (edgeEffect_cfg_delivered ts now s).2

/-- What the one entry of an EDGE in `TRACE` tells about the rest of the state. -/
structure EdgeEntry (s t : State) (e : TraceEntry) : Prop where
  trace : t.trace = s.trace ++ [e]
  disp : e.disp ∈ [.primed, .noSym, .repeatCode, .errTiming, .errChecksum, .unmapped, .debounced, .accepted, .lost, .fault]
  lost : e.disp = .lost → t.regs = s.regs
  prevValid : t.prevValid = s.prevValid ∨ s.prevValid = false ∧ t.prevValid = true
  gate : e.disp = .accepted ∨
    t.lastAcc = s.lastAcc ∧ t.lastValid = s.lastValid ∧ t.outValid = s.outValid ∧ t.outSym = s.outSym
  fault : e = ⟨.fault, 1⟩ ∨ t.fault = s.fault

theorem exists_edgeEntry (ts : Timestamp) (now : Instant) (s : State) : ∃ e, EdgeEntry s (edgeEffect ts now s) e := by
  obtain ⟨u, hu, ⟨code, sym, -, -, e⟩ | ⟨-, -, e⟩ | ⟨d, v, hd, hlost, e⟩⟩ := edgeEffect_gate_cases ts now s <;> rw [e]
  · exact ⟨⟨.accepted, symVal sym⟩, by simp [hu.trace], by simp, nofun, hu.prevValid, .inl rfl, .inr hu.fault⟩
  · exact ⟨⟨.fault, 1⟩, by simp [hu.trace, faultEntry], by simp, nofun, hu.prevValid,
      .inr ⟨hu.lastAcc, hu.lastValid, hu.outValid, hu.outSym⟩, .inl rfl⟩
  · have hsub : quietDispositions ⊆
        [.primed, .noSym, .repeatCode, .errTiming, .errChecksum, .unmapped, .debounced, .accepted, .lost, .fault] := by decide
    refine ⟨⟨d, v⟩, by simp [hu.trace], hsub hd, fun h => ?_, hu.prevValid,
      .inr ⟨hu.lastAcc, hu.lastValid, hu.outValid, hu.outSym⟩, .inr hu.fault⟩
    obtain rfl := hlost h
    rfl

/-- Settles O41: the frame, from the one entry that the EDGE makes. -/
theorem edgeFrame : Obligations.EdgeFrame := by
  intro ts now s t h
  obtain rfl : edgeEffect ts now s = t := Host.Outcome.next.inj h
  obtain ⟨⟨d, v⟩, he⟩ := exists_edgeEntry ts now s
  refine ⟨edgeEffect_cfg ts now s, edgeEffect_delivered ts now s, edgeEffect_input ts now s, he.prevValid,
    he.gate.imp_left ?_, he.fault.imp_left ?_, fun hlost => he.lost ?_⟩
  · rintro rfl
    exact ⟨v, he.trace⟩
  · intro hfault
    rw [he.trace, hfault]
  · rw [he.trace, List.append_cancel_left_eq] at hlost
    exact congrArg TraceEntry.disp (List.singleton_inj.1 hlost)

end Sys2Proof.Machine
end

section
/-! What one step does, transaction by transaction, and so what no step does. -/

namespace Sys2Proof.Machine

variable {s t : State}

/-! ### A machine that takes no transaction -/

/-- Settles O7: an empty stream is no transaction. -/
theorem waitingKeepsAllState : Obligations.WaitingKeepsAllState := by
  intro s hs hi
  rw [step_of_running hs.1 hs.2, runStream, hi]

/-- Settles O8: `CONFIG` is looked at before the rest of the state. -/
theorem illFormedConfigHasNoRun : Obligations.IllFormedConfigHasNoRun := by
  intro s hc
  simp [step, blocked, hc]

/-- Settles O6: the machine is not blocked, and the word is the transaction's. -/
theorem stepRunsTheDecodedTransaction : Obligations.StepRunsTheDecodedTransaction :=
  fun _ _ _ _ hs hi hd => step_of_encode hs (decode_eq_legal_iff.1 hd ▸ hi)

theorem step_of_stuck (hc : s.cfg.wf = true) {f : Fault} (hf : s.stuckFault = some f) : step s = .fault f := by
  simp [step, blocked, hc, hf]

/-- Each bit of `FAULT` has its fault. -/
theorem exists_stuckFault (hf : s.fault ≠ 0) : ∃ f, s.stuckFault = some f := by
  have hbits : ∀ f : BitVec 2, f ≠ 0 → f.getLsbD 0 = false → f.getLsbD 1 = true := by decide
  cases h0 : s.fault.getLsbD 0 with
  | true => exact ⟨.timeRegression, if_pos h0⟩
  | false => exact ⟨.refusedWord, by rw [State.stuckFault, h0, hbits s.fault hf h0]; rfl⟩

/-- Once a running machine has recorded a fault, its next step answers it. -/
theorem step_takeFault (hs : s.Running) (f : Fault) : step (s.takeFault f) = .fault f := by
  have hstuck : (s.takeFault f).stuckFault = some f := by
    rw [State.stuckFault, takeFault_fault, hs.2]
    cases f <;> rfl
  exact step_of_stuck (s := s.takeFault f) hs.1 hstuck

/-- The step of a running machine on a word that is no transaction's: the refusal is recorded (30_encoding.md R79(b)). -/
theorem step_of_illegal (hs : s.Running) {w : TxWord} {rest : List TxWord} {why : IllegalWord} (hi : s.input = w :: rest)
    (hd : decode w = .illegal why) : step s = .next (({ s with input := rest } : State).takeFault .refusedWord) := by
  rw [step_of_running hs.1 hs.2, runStream, hi]
  simp only [runWord, hd]

/-- Settles O9: the word decodes to nothing, and from a `FAULT` of 0 only the bit of the refusal is set. -/
theorem illegalWordIsRefusedThenStuck : Obligations.IllegalWordIsRefusedThenStuck := by
  intro s w rest hs hi hw
  cases hd : decode w with
  | legal i => exact absurd (decode_eq_legal_iff.1 hd).symm (hw i)
  | illegal why =>
    have hf : s.fault = 0 := hs.2
    refine ⟨_, step_of_illegal hs hi hd, ?_, ?_⟩
    · simp [State.takeFault, State.record, faultBit, faultEntry, hf]
    · exact step_takeFault (s := { s with input := rest }) hs .refusedWord

/-! ### A step that answers a next state -/

/-- The forms of a step that answers a next state, `u` being the machine with the word taken off the stream. -/
theorem step_forms (h : step s = .next t) :
    s.Running ∧ ((s.input = [] ∧ t = s) ∨
      ∃ w rest u, s.input = w :: rest ∧ u = { s with input := rest } ∧
        ((decode w = .legal .nop ∧ t = u.record .idle 0) ∨
          (∃ ts now, decode w = .legal (.edge ts now) ∧ t = edgeEffect ts now u) ∨
          (decode w = .legal .deliver ∧ t = deliverEffect u) ∨
          (decode w = .legal .reset ∧ t = u.resetRegisters.record .reset 0) ∨
          (∃ why, decode w = .illegal why ∧ t = u.takeFault .refusedWord))) := by
  obtain ⟨hc, hf, hwait | ⟨w, rest, hi, ⟨i, hd, hexec⟩ | hill⟩⟩ := step_cases h
  · exact ⟨⟨hc, hf⟩, .inl hwait⟩
  · refine ⟨⟨hc, hf⟩, .inr ⟨w, rest, _, hi, rfl, ?_⟩⟩
    rcases exec_cases hexec with ⟨rfl, e⟩ | ⟨ts, now, rfl, e⟩ | ⟨rfl, e⟩ | ⟨rfl, e⟩
    · exact .inl ⟨hd, e⟩
    · exact .inr (.inl ⟨ts, now, hd, e⟩)
    · exact .inr (.inr (.inl ⟨hd, e⟩))
    · exact .inr (.inr (.inr (.inl ⟨hd, e⟩)))
  · exact ⟨⟨hc, hf⟩, .inr ⟨w, rest, _, hi, rfl, .inr (.inr (.inr (.inr hill)))⟩⟩

/-- DELIVER writes `OUT_VALID`, `DELIVERED` and `TRACE` at most (43_decoder_loop.md R188). -/
theorem deliverEffect_frame (s : State) :
    deliverEffect s = { s with
      outValid := false, delivered := s.delivered ++ s.pending.toList, trace := (deliverEffect s).trace } := by
  rcases deliverEffect_cases s with ⟨ho, e⟩ | ⟨ho, e⟩ <;> rw [e]
  · simp [State.pending, ho, State.record, State.clearOutValid, State.emit]
  · simp [State.pending, ho, State.record]

/-- Settles O11: each transaction keeps `CONFIG`. -/
theorem configIsNeverWritten : Obligations.ConfigIsNeverWritten := by
  intro s t h
  obtain ⟨-, ⟨-, rfl⟩ | ⟨w, rest, u, -, rfl, ⟨-, rfl⟩ | ⟨ts, now, -, rfl⟩ | ⟨-, rfl⟩ | ⟨-, rfl⟩ | ⟨why, -, rfl⟩⟩⟩ :=
    step_forms h
  case inr.inr.inl => exact edgeEffect_cfg ts now _
  case inr.inr.inr.inl => rw [deliverEffect_frame]
  all_goals rfl

/-- No transaction clears a bit of `FAULT` (60_exceptions.md R230): EDGE may set one, and the others leave it. -/
theorem exec_fault {i : Instr} (h : exec i s = .next t) : ∃ bits, t.fault = s.fault ||| bits := by
  have hkeep : ∀ f : BitVec 2, f = f ||| 0 := fun f => BitVec.or_zero.symm
  rcases exec_cases h with ⟨-, rfl⟩ | ⟨ts, now, -, rfl⟩ | ⟨-, rfl⟩ | ⟨-, rfl⟩
  · exact ⟨0, hkeep _⟩
  · obtain ⟨u, hu, ⟨code, sym, -, -, e⟩ | ⟨-, -, e⟩ | ⟨d, v, -, -, e⟩⟩ := edgeEffect_gate_cases ts now s <;> rw [e]
    · exact ⟨0, hu.fault.trans (hkeep _)⟩
    · exact ⟨faultBit .timeRegression, congrArg (· ||| _) hu.fault⟩
    · exact ⟨0, hu.fault.trans (hkeep _)⟩
  · rw [deliverEffect_frame]
    exact ⟨0, hkeep _⟩
  · exact ⟨0, hkeep _⟩

/-- Settles O10: a bit of `FAULT` blocks the machine, and stays. -/
theorem recordedFaultsAreSticky : Obligations.RecordedFaultsAreSticky := by
  refine ⟨fun s hc hf => ?_, fun i s t h => ?_⟩
  · obtain ⟨f, hstuck⟩ := exists_stuckFault hf
    exact ⟨f, step_of_stuck hc hstuck⟩
  · obtain ⟨bits, hbits⟩ := exec_fault h
    have hsub : ∀ f b : BitVec 2, (f ||| b) &&& f = f := by decide
    rw [hbits, hsub]

/-- Settles O12: each transaction makes its entry on the state with the word taken off the stream. -/
theorem eachTransactionRecordsOneDisposition : Obligations.EachTransactionRecordsOneDisposition := by
  intro s t w rest hi h
  obtain ⟨-, ⟨hnil, -⟩ | ⟨w', rest', u, hi', rfl, hform⟩⟩ := step_forms h
  · rw [hi] at hnil
    cases hnil
  obtain ⟨rfl, rfl⟩ := List.cons.inj (hi'.symm.trans hi)
  rcases hform with ⟨hd, rfl⟩ | ⟨ts, now, hd, rfl⟩ | ⟨hd, rfl⟩ | ⟨hd, rfl⟩ | ⟨why, hd, rfl⟩
  · exact ⟨⟨.idle, 0⟩, rfl, rfl, by simp [hd]⟩
  · obtain ⟨e, he⟩ := exists_edgeEntry ts now { s with input := rest' }
    exact ⟨e, he.trace, edgeEffect_input ts now _, by simpa [hd] using he.disp⟩
  · rcases deliverEffect_cases { s with input := rest' } with ⟨-, e⟩ | ⟨-, e⟩ <;> rw [e]
    · exact ⟨⟨.delivered, _⟩, rfl, rfl, by simp [hd]⟩
    · exact ⟨⟨.idle, 0⟩, rfl, rfl, by simp [hd]⟩
  · exact ⟨⟨.reset, 0⟩, rfl, rfl, by simp [hd]⟩
  · exact ⟨⟨.refused, 0⟩, rfl, rfl, by simp [hd]⟩

end Sys2Proof.Machine
end

section
/-! What moves the gate registers and `DELIVERED`, read off one step (42_debounce_gate.md R165, R167; 43_decoder_loop.md R190). -/

namespace Sys2Proof.Machine

variable {s t : State}

/-! ### The gate registers -/

/-- A step keeps the gate registers, or RESET clears `LAST_VALID`, or an acceptance moves `LAST_ACC` past the quiet window. -/
theorem step_gate_cases (h : step s = .next t) :
    (t.lastAcc = s.lastAcc ∧ t.lastValid = s.lastValid) ∨
    (t.lastValid = false ∧ t.trace = s.trace ++ [⟨.reset, 0⟩]) ∨
    ((s.lastValid = false ∨ s.lastAcc.toNat + s.cfg.qw.toNat ≤ t.lastAcc.toNat) ∧
      ∃ val, t.trace = s.trace ++ [⟨.accepted, val⟩]) := by
  obtain ⟨-, ⟨-, rfl⟩ | ⟨w, rest, u, -, rfl, ⟨-, rfl⟩ | ⟨ts, now, -, rfl⟩ | ⟨-, rfl⟩ | ⟨-, rfl⟩ | ⟨why, -, rfl⟩⟩⟩ :=
    step_forms h
  case inr.inr.inl =>
    obtain ⟨u, hu, ⟨code, sym, -, hopen, e⟩ | ⟨-, -, e⟩ | ⟨d, v, -, -, e⟩⟩ :=
      edgeEffect_gate_cases ts now { s with input := rest } <;> rw [e]
    · exact .inr (.inr ⟨hopen, symVal sym, by simp [hu.trace]⟩)
    · exact .inl ⟨hu.lastAcc, hu.lastValid⟩
    · exact .inl ⟨hu.lastAcc, hu.lastValid⟩
  case inr.inr.inr.inl =>
    rw [deliverEffect_frame]
    exact .inl ⟨rfl, rfl⟩
  case inr.inr.inr.inr.inl => exact .inr (.inl ⟨rfl, rfl⟩)
  all_goals exact .inl ⟨rfl, rfl⟩

/-- Settles O30: of the three cases only an acceptance changes `LAST_ACC` and leaves `LAST_VALID` set. -/
theorem acceptancesAreAQuietWindowApart : Obligations.AcceptancesAreAQuietWindowApart := by
  intro s t h hs ht hne
  rcases step_gate_cases h with ⟨hsame, -⟩ | ⟨hreset, -⟩ | ⟨hopen, -⟩
  · exact absurd hsame hne
  · exact absurd (ht.symm.trans hreset) (by decide)
  · exact hopen.resolve_left (by simp [hs])

/-- Settles O31: the same three cases, by their entries. -/
theorem gateRegistersMoveOnlyOnAcceptance : Obligations.GateRegistersMoveOnlyOnAcceptance := by
  intro s t h hmoved
  rcases step_gate_cases h with hsame | ⟨-, hreset⟩ | ⟨-, haccepted⟩
  · exact absurd hsame hmoved
  · exact .inr hreset
  · exact .inl haccepted

/-! ### The symbols handed over -/

/-- A step keeps `DELIVERED`, or DELIVER appends the pending symbol to it. -/
theorem step_delivered_cases (h : step s = .next t) :
    t.delivered = s.delivered ∨
    ∃ rest, s.input = encode .deliver :: rest ∧ s.outValid = true ∧ t.outValid = false ∧
      t.delivered = s.delivered ++ [s.outSym] := by
  obtain ⟨-, ⟨-, rfl⟩ | ⟨w, rest, u, hi, rfl, ⟨-, rfl⟩ | ⟨ts, now, -, rfl⟩ | ⟨hd, rfl⟩ | ⟨-, rfl⟩ | ⟨why, -, rfl⟩⟩⟩ :=
    step_forms h
  case inr.inr.inl => exact .inl (edgeEffect_delivered ts now _)
  case inr.inr.inr.inl =>
    rcases deliverEffect_cases { s with input := rest } with ⟨ho, e⟩ | ⟨-, e⟩ <;> rw [e]
    · exact .inr ⟨rest, decode_eq_legal_iff.1 hd ▸ hi, ho, rfl, rfl⟩
    · exact .inl rfl
  all_goals exact .inl rfl

/-- Settles O46: the second of the two cases. -/
theorem onlyDeliverHandsOverSymbols : Obligations.OnlyDeliverHandsOverSymbols :=
  fun _ _ h hne => (step_delivered_cases h).resolve_left hne

/-- Settles O53: what DELIVER appends is a pending symbol, which is no reserved code (10_state.md R36(d)). -/
theorem reservedSymbolsAreNeverDelivered : Obligations.ReservedSymbolsAreNeverDelivered := by
  intro s t hregs hdel h
  rcases step_delivered_cases h with e | ⟨rest, -, ho, -, e⟩ <;> rw [e]
  · exact hdel
  · obtain ⟨-, hsym⟩ := registersOk_iff.1 hregs
    rw [List.forall_mem_append, List.forall_mem_singleton]
    exact ⟨hdel, hsym ho⟩

/-- Settles O51: the reset state is a constructed one. -/
theorem registerInvariantsAtReset : Obligations.RegisterInvariantsAtReset := construct_registersOk Config.reference

end Sys2Proof.Machine
end

section
/-! `DELIVERED` and the pending symbol as the trace tells them (43_decoder_loop.md R192; 70_reset_and_hazards.md R260). -/

namespace Sys2Proof.Machine

variable {s t : State}

/-- Replaying one entry more. -/
theorem replayTrace_append_singleton (trace : List TraceEntry) (e : TraceEntry) :
    replayTrace (trace ++ [e]) = replayEntry (replayTrace trace) e := by
  rw [replayTrace, List.foldl_append]
  rfl

/-- An entry keeps the agreement if what it does to the replayed pair is what the step does to `DELIVERED` and the pending
symbol. -/
theorem deliveriesMatchTrace_of_entry (hs : s.DeliveriesMatchTrace) {e : TraceEntry} (htrace : t.trace = s.trace ++ [e])
    (he : replayEntry (s.delivered, s.pending) e = (t.delivered, t.pending)) : t.DeliveriesMatchTrace := by
  rw [State.DeliveriesMatchTrace, htrace, replayTrace_append_singleton, hs, he]

/-- Only ACCEPTED, DELIVERED and RESET count in the replay, and no quiet EDGE makes one of them. -/
theorem replayEntry_of_quiet {d : Disposition} (hd : d ∈ quietDispositions) (r : List SymCode × Option SymCode) (v : BitVec 8) :
    replayEntry r ⟨d, v⟩ = r := by
  simp only [quietDispositions, List.mem_cons, List.not_mem_nil, or_false] at hd
  rcases hd with rfl | rfl | rfl | rfl | rfl | rfl | rfl | rfl <;> rfl

theorem pending_of_frontEndOnly {u : State} (hu : FrontEndOnly s u) : u.pending = s.pending := by
  rw [State.pending, hu.outValid, hu.outSym, State.pending]

/-- A symbol comes back from its trace value. -/
theorem setWidth_symVal (sym : SymCode) : (symVal sym).setWidth 4 = sym := by
  revert sym
  decide

/-- An acceptance makes its symbol pending; any other EDGE leaves what was pending. -/
theorem edgeEffect_deliveriesMatchTrace (hs : s.DeliveriesMatchTrace) (ts : Timestamp) (now : Instant) :
    (edgeEffect ts now s).DeliveriesMatchTrace := by
  obtain ⟨u, hu, ⟨code, sym, -, -, e⟩ | ⟨-, -, e⟩ | ⟨d, v, hd, -, e⟩⟩ := edgeEffect_gate_cases ts now s <;> rw [e]
  · refine deliveriesMatchTrace_of_entry hs (e := ⟨.accepted, symVal sym⟩) (by simp [hu.trace]) ?_
    simp [replayEntry, State.pending, setWidth_symVal, hu.delivered]
  · refine deliveriesMatchTrace_of_entry hs (e := ⟨.fault, 1⟩) (congrArg (· ++ _) hu.trace) ?_
    exact Prod.ext hu.delivered.symm (pending_of_frontEndOnly hu).symm
  · refine deliveriesMatchTrace_of_entry hs (e := ⟨d, v⟩) (congrArg (· ++ _) hu.trace) ?_
    rw [replayEntry_of_quiet hd]
    exact Prod.ext hu.delivered.symm (pending_of_frontEndOnly hu).symm

theorem deliverEffect_deliveriesMatchTrace (hs : s.DeliveriesMatchTrace) : (deliverEffect s).DeliveriesMatchTrace := by
  rcases deliverEffect_cases s with ⟨ho, e⟩ | ⟨-, e⟩ <;> rw [e]
  · refine deliveriesMatchTrace_of_entry hs (e := ⟨.delivered, symVal s.outSym⟩) rfl ?_
    simp [replayEntry, State.pending, ho]
  · exact deliveriesMatchTrace_of_entry hs (e := ⟨.idle, 0⟩) rfl rfl

/-- Settles O55: each entry that a step makes does to the replayed pair what the step does to the state. -/
theorem stepKeepsDeliveriesMatchTrace : Obligations.StepKeepsDeliveriesMatchTrace := by
  intro s t hs h
  obtain ⟨-, ⟨-, rfl⟩ | ⟨w, rest, u, -, rfl, ⟨-, rfl⟩ | ⟨ts, now, -, rfl⟩ | ⟨-, rfl⟩ | ⟨-, rfl⟩ | ⟨why, -, rfl⟩⟩⟩ :=
    step_forms h
  · exact hs
  · exact deliveriesMatchTrace_of_entry hs (e := ⟨.idle, 0⟩) rfl rfl
  · exact edgeEffect_deliveriesMatchTrace (s := { s with input := rest }) hs ts now
  · exact deliverEffect_deliveriesMatchTrace (s := { s with input := rest }) hs
  · exact deliveriesMatchTrace_of_entry hs (e := ⟨.reset, 0⟩) rfl rfl
  · exact deliveriesMatchTrace_of_entry hs (e := ⟨.refused, 0⟩) rfl rfl

/-- Settles O54: nothing is traced, delivered or pending. -/
theorem deliveriesMatchTraceAtReset : Obligations.DeliveriesMatchTraceAtReset := rfl

end Sys2Proof.Machine
end

section
/-! The contract of the stimulus (60_exceptions.md R230; 70_reset_and_hazards.md R266): while `now` never falls below the last
acceptance, the gate finds no time regression. -/

namespace Sys2Proof.Machine

variable {s : State} {floor : Nat} {rest : List TxWord}

/-! ### What the contract asks of each word -/

theorem nowsRise_nop : nowsRise floor (encode .nop :: rest) = nowsRise floor rest := by simp [nowsRise]

theorem nowsRise_deliver : nowsRise floor (encode .deliver :: rest) = nowsRise floor rest := by simp [nowsRise]

theorem nowsRise_reset : nowsRise floor (encode .reset :: rest) = nowsRise 0 rest := by simp [nowsRise]

theorem nowsRise_edge {ts : Timestamp} {now : Instant} :
    nowsRise floor (encode (.edge ts now) :: rest) = true ↔ floor ≤ now.toNat ∧ nowsRise now.toNat rest = true := by
  simp [nowsRise]

/-- The words of a kept contract are all transactions'. -/
theorem exists_encode_of_nowsRise {w : TxWord} (h : nowsRise floor (w :: rest) = true) : ∃ i, w = encode i := by
  cases hd : decode w with
  | legal i => exact ⟨i, decode_eq_legal_iff.1 hd⟩
  | illegal why => simp [nowsRise, hd] at h

/-! ### What each transaction makes of it -/

/-- The contract, with the bound that the coming `now` values keep. -/
def State.WithinContractFrom (floor : Nat) (s : State) : Prop :=
  s.Running ∧ (s.lastValid = true → s.lastAcc.toNat ≤ floor) ∧ nowsRise floor s.input = true

theorem withinContract_iff : s.WithinContract ↔ ∃ floor, s.WithinContractFrom floor := by
  simp only [State.WithinContract, State.WithinContractFrom, exists_and_left]

/-- An EDGE whose `now` keeps the bound raises no fault, and its `now` is the next bound: `LAST_ACC` is not above it. -/
theorem edgeEffect_withinContractFrom (hs : s.Running) (hacc : s.lastValid = true → s.lastAcc.toNat ≤ floor) (ts : Timestamp)
    {now : Instant} (hnow : floor ≤ now.toNat) (hrise : nowsRise now.toNat s.input = true) :
    (edgeEffect ts now s).WithinContractFrom now.toNat := by
  have hle : s.lastValid = true → s.lastAcc.toNat ≤ now.toNat := fun hv => (hacc hv).trans hnow
  have hgate : (edgeEffect ts now s).fault = 0 ∧
      ((edgeEffect ts now s).lastValid = true → (edgeEffect ts now s).lastAcc.toNat ≤ now.toNat) := by
    obtain ⟨u, hu, ⟨code, sym, -, -, e⟩ | ⟨hv, hlt, -⟩ | ⟨d, v, -, -, e⟩⟩ := edgeEffect_gate_cases ts now s
    · rw [e]
      exact ⟨hu.fault.trans hs.2, fun _ => le_rfl⟩
    · exact absurd (hle hv) (not_le.2 hlt)
    · rw [e, record_lastValid, record_lastAcc, hu.lastValid, hu.lastAcc]
      exact ⟨hu.fault.trans hs.2, hle⟩
  obtain ⟨hfault, hacc'⟩ := hgate
  exact ⟨⟨(edgeEffect_cfg ts now s).symm ▸ hs.1, hfault⟩, hacc', (edgeEffect_input ts now s).symm ▸ hrise⟩

/-- A transaction that keeps the contract has a next state, which keeps it from some bound on. -/
theorem exists_exec_withinContractFrom (hs : s.Running) (hacc : s.lastValid = true → s.lastAcc.toNat ≤ floor) {i : Instr}
    (hrise : nowsRise floor (encode i :: s.input) = true) :
    ∃ t, exec i s = .next t ∧ ∃ floor', t.WithinContractFrom floor' := by
  cases i with
  | nop => exact ⟨_, rfl, floor, hs, hacc, nowsRise_nop ▸ hrise⟩
  | edge ts now =>
    obtain ⟨hnow, hrise⟩ := nowsRise_edge.1 hrise
    exact ⟨_, rfl, _, edgeEffect_withinContractFrom hs hacc ts hnow hrise⟩
  | deliver =>
    refine ⟨_, rfl, floor, ?_⟩
    rw [deliverEffect_frame]
    exact ⟨hs, hacc, nowsRise_deliver ▸ hrise⟩
  | reset => exact ⟨_, rfl, 0, hs, nofun, nowsRise_reset ▸ hrise⟩

/-- Settles O56: a running machine waits, or its next word is a transaction's that keeps the contract. -/
theorem contractStimulusNeverFaults : Obligations.ContractStimulusNeverFaults := by
  intro s h
  obtain ⟨floor, hs, hacc, hrise⟩ := withinContract_iff.1 h
  cases hi : s.input with
  | nil => exact ⟨s, waitingKeepsAllState s hs hi, h⟩
  | cons w rest =>
    rw [hi] at hrise
    obtain ⟨i, rfl⟩ := exists_encode_of_nowsRise hrise
    obtain ⟨t, hexec, hnext⟩ := exists_exec_withinContractFrom (s := { s with input := rest }) hs hacc hrise
    exact ⟨t, (step_of_encode hs hi).trans hexec, withinContract_iff.2 hnext⟩

end Sys2Proof.Machine
end

section
/-! The outcome that one EDGE reports (43_decoder_loop.md R180; 60_exceptions.md R227), and EDGEs that are all lost. -/

namespace Sys2Proof.Machine

variable {s : State} {ts : Timestamp} {now : Instant}

/-- Settles O34: of such an outcome only its entry is left to make. -/
theorem edgeWithoutSymbolGoesOn : Obligations.EdgeWithoutSymbolGoesOn := by
  rintro ts now s r e ho hp rfl hout
  have hdecoded := edgeEffect_of_primed ho hp ts now
  rcases hout with ⟨hout, rfl⟩ | ⟨hout, rfl⟩ | ⟨hout, rfl⟩ | ⟨hout, rfl⟩ <;>
    rw [show (decodeEdge ts s).out = _ from hout] at hdecoded <;>
    exact congrArg Host.Outcome.next hdecoded

/-- A mapped symbol at a `now` below the last acceptance: the gate writes nothing (42_debounce_gate.md R164). -/
theorem mapThenGate_of_regression {code : Code} {sym : SymCode} (hmap : mapCode s.cfg code = some sym)
    (hv : s.lastValid = true) (hlt : now.toNat < s.lastAcc.toNat) :
    mapThenGate now code s = s.takeFault .timeRegression := by
  rw [mapThenGate_of_mapped hmap, gateSymbol, accept_of_regression hv hlt]

theorem edgeEffect_of_regression (ho : s.outValid = false) (hp : s.prevValid = true)
    (hsym : (decodeEdge ts s).out = .symbol) {sym : SymCode} (hmap : mapCode s.cfg (decodeEdge ts s).code = some sym)
    (hv : s.lastValid = true) (hlt : now.toNat < s.lastAcc.toNat) :
    edgeEffect ts now s = ((s.consumeEdge ts).writeDecoder .shIdle 0 0).takeFault .timeRegression :=
  (edgeEffect_of_symbol ho hp hsym now).trans
    (mapThenGate_of_regression (s := (s.consumeEdge ts).writeDecoder .shIdle 0 0) hmap hv hlt)

/-- Settles O38: from a `FAULT` of 0 only the bit of the regression is set, and the next step answers it. -/
theorem timeRegressionIsAModelFault : Obligations.TimeRegressionIsAModelFault := by
  rintro ts now s t r sym hs ho hp rfl hsym hmap hv hlt rfl
  have hfault : ((s.consumeEdge ts).writeDecoder .shIdle 0 0).takeFault .timeRegression =
      { s with
        pol := !s.pol, prevTs := ts, dstate := .shIdle, bitcnt := 0, acc := 0, fault := 0b01,
        trace := s.trace ++ [⟨.fault, 1⟩] } := by
    rw [State.takeFault, writeDecoder_fault, consumeEdge_fault, hs.2]
    rfl
  refine ⟨congrArg Host.Outcome.next ((edgeEffect_of_regression ho hp hsym hmap hv hlt).trans hfault), ?_⟩
  rw [← hfault]
  exact step_takeFault (s := (s.consumeEdge ts).writeDecoder .shIdle 0 0) hs .timeRegression

/-- The disposition of the one entry that was added. -/
theorem disp_of_append_eq {trace : List TraceEntry} {e e' : TraceEntry} (h : trace ++ [e'] = trace ++ [e]) :
    e.disp = e'.disp := by
  rw [List.append_cancel_left_eq] at h
  exact congrArg TraceEntry.disp (List.singleton_inj.1 h).symm

/-- Settles O42: each clause is the whole effect of an EDGE that is past the tests before it. -/
theorem outcomePriorityOfOneEdge : Obligations.OutcomePriorityOfOneEdge := by
  intro ts now s t e h he
  obtain rfl : edgeEffect ts now s = t := Host.Outcome.next.inj h
  refine ⟨fun ho => ?_, fun ho hp => ?_, fun ho hp hd hzero hone => ?_, fun ho hp hsym => ⟨fun hmap => ?_, fun hmap hv hlt => ?_⟩⟩
  · rw [edgeEffect_of_pending ho] at he
    exact disp_of_append_eq he
  · rw [edgeEffect_of_unprimed ho hp] at he
    exact disp_of_append_eq he
  · have herr : decodeEdge ts s = errTimingResult := by
      rw [decodeEdge, hd]
      exact pdRbSpace_of_unclassified (.inr ⟨hzero, hone⟩)
    rw [edgeEffect_of_primed ho hp, herr] at he
    exact disp_of_append_eq he
  · have hunmapped := mapThenGate_of_unmapped (s := (s.consumeEdge ts).writeDecoder .shIdle 0 0) hmap now
    rw [(edgeEffect_of_symbol ho hp hsym now).trans hunmapped] at he
    exact disp_of_append_eq he
  · obtain ⟨sym, hmap⟩ := Option.ne_none_iff_exists'.1 hmap
    rw [edgeEffect_of_regression ho hp hsym hmap hv hlt] at he
    exact disp_of_append_eq he

/-- EDGEs while a symbol is pending, by induction on them: each makes its entry, and the symbol stays pending. -/
theorem run_lostEdges (rest : List TxWord) (edges : List (Timestamp × Instant)) :
    ∀ s : State, s.Running → s.outValid = true → s.input = (edges.map fun e => encode (.edge e.1 e.2)) ++ rest →
      run edges.length s =
        .next { s with input := rest, trace := s.trace ++ List.replicate edges.length ⟨.lost, 0⟩ } := by
  induction edges with
  | nil =>
    rintro s - - rfl
    simp
  | cons e edges ih =>
    intro s hs ho hi
    have hlost := edgeEffect_of_pending (s := { s with input := (edges.map fun e => encode (.edge e.1 e.2)) ++ rest }) ho
    have hstep := (step_of_encode hs hi).trans (congrArg Host.Outcome.next (hlost e.1 e.2))
    rw [List.length_cons, run_of_next hstep, ih]
    · simp [List.replicate_succ]
    · exact hs
    · exact ho
    · rfl

/-- Settles O44: `run_lostEdges`. -/
theorem unreadySinkLosesEveryEdge : Obligations.UnreadySinkLosesEveryEdge := fun edges s rest => run_lostEdges rest edges s

end Sys2Proof.Machine
end

section
/-! Intervals that no frame can hold: a space where a mark is due, and marks labelled as spaces (70_reset_and_hazards.md R271,
R274). -/

namespace Sys2Proof.Machine

variable {cfg : Config} {d : DState} {n : BitVec 4} {a : BitVec 16} {iv : Timestamp} {isMark : Bool}

theorem roleOk_of_checked (hpol : cfg.polCheck = true) {want : Bool} (h : isMark ≠ want) : roleOk cfg isMark want = false := by
  rw [Bool.eq_false_iff, Ne, roleOk_iff]
  simp [hpol, h]

/-- Settles O24: a space is no bit mark, and this one stands for no data bit. -/
theorem cutOffFrameIsDiscardedByTheGap : Obligations.CutOffFrameIsDiscardedByTheGap := by
  rintro cfg d n a gap hpol (rfl | rfl) hzero hone
  · have hrole : roleOk cfg false true = false := roleOk_of_checked hpol Bool.noConfusion
    exact (pdRbMark_eq cfg n a gap false).trans (if_neg (by simp [hrole]))
  · exact pdRbSpace_of_unclassified (.inr ⟨hzero, hone⟩)

/-- While it seeks a header, an interval that is neither of the header's two spaces takes the decoder no further than
`SH_MARK`. -/
theorem pdStep_seeking (hd : d = .shIdle ∨ d = .shMark)
    (hspace : isSpaceOf cfg iv isMark .hdrSpace = false ∧ isSpaceOf cfg iv isMark .rptSpace = false) :
    pdStep cfg d n a iv isMark = goOn .shMark 0 0 ∨ pdStep cfg d n a iv isMark = errTimingResult := by
  obtain ⟨hhdr, hrpt⟩ := hspace
  rcases hd with rfl | rfl
  · rcases pdShIdle_cases cfg iv isMark with ⟨-, e⟩ | ⟨-, e⟩
    · exact .inl e
    · exact .inr e
  · exact .inr (by simp [pdStep, pdShMark, hhdr, hrpt])

/-- So no interval of such a sequence gets it there, by induction on them. -/
theorem pdRun_seeking {ivs : List (Bool × Timestamp)}
    (hspace : ∀ p ∈ ivs, isSpaceOf cfg p.2 p.1 .hdrSpace = false ∧ isSpaceOf cfg p.2 p.1 .rptSpace = false)
    (hd : d = .shIdle ∨ d = .shMark) :
    ∀ r ∈ pdRun cfg d n a ivs, r.out = .noSymbol ∧ r.dstate = .shMark ∨ r.out = .errTiming := by
  induction ivs generalizing d n a with
  | nil => simp [pdRun]
  | cons p rest ih =>
    obtain ⟨hp, hrest⟩ := List.forall_mem_cons.1 hspace
    rw [pdRun, List.forall_mem_cons]
    rcases pdStep_seeking hd hp with e | e <;> rw [e]
    · exact ⟨.inl ⟨rfl, rfl⟩, ih hrest (.inr rfl)⟩
    · exact ⟨.inr rfl, ih hrest (.inl rfl)⟩

/-- The reference bands of the two marks are apart from those of the header's two spaces. -/
theorem not_headerSpace_of_mark (h : inBand Config.reference iv .hdrMark = true ∨ inBand Config.reference iv .bitMark = true) :
    inBand Config.reference iv .hdrSpace = false ∧ inBand Config.reference iv .rptSpace = false := by
  rcases h with h | h
  · exact ⟨not_inBand_of_disjoint (by decide) h, not_inBand_of_disjoint (by decide) h⟩
  · exact ⟨not_inBand_of_disjoint (by decide) h, not_inBand_of_disjoint (by decide) h⟩

/-- Settles O22: a mark labelled a mark fails the role test of either space, one labelled a space the band test. -/
theorem invertedPolarityDecodesNothing : Obligations.InvertedPolarityDecodesNothing := by
  intro t ivs hmarks
  refine pdRun_seeking (fun p hp => ?_) (.inl rfl)
  cases hrole : p.1 with
  | true =>
    have : roleOk { Config.reference with mapTable := t } true false = false := roleOk_of_checked rfl Bool.noConfusion
    simp [isSpaceOf, this]
  | false =>
    obtain ⟨hhdr, hrpt⟩ := not_headerSpace_of_mark (hmarks p hp hrole)
    exact ⟨Bool.and_eq_false_iff.2 (.inr hhdr), Bool.and_eq_false_iff.2 (.inr hrpt)⟩

end Sys2Proof.Machine
end

section
/-! The one pair that every command table holds (41_command_mapper.md R141(c), (d)). -/

namespace Sys2Proof.Machine

/-- Each symbol stands in one pair, so two codes do not map to it. -/
theorem mapCode_inj {cfg : Config} (hc : cfg.wf = true) {sym : Symbol} {c c' : Code}
    (h : mapCode cfg c = some (symbolCode sym)) (h' : mapCode cfg c' = some (symbolCode sym)) : c = c' := by
  obtain ⟨-, -, hone, -⟩ := pairsWf_iff.1 (config_pairs_wf hc)
  have hsym : sym ∈ allSymbols := by cases sym <;> decide
  obtain ⟨p, hp⟩ := List.length_eq_one_iff.1 (List.countP_eq_length_filter.symm.trans (hone sym hsym))
  have honly : ∀ {c : Code}, mapCode cfg c = some (symbolCode sym) → (c, symbolCode sym) = p := by
    intro c hmap
    rw [← List.mem_singleton, ← hp, List.mem_filter]
    exact ⟨mapCode_mem hmap, BEq.refl _⟩
  exact congrArg Prod.fst ((honly h).trans (honly h').symm)

/-- Settles O26: the fixed pair, and no second pair of `ONE`. -/
theorem codeTwelveIsOne : Obligations.CodeTwelveIsOne := by
  intro cfg hc
  obtain ⟨-, -, -, hfixed⟩ := pairsWf_iff.1 (config_pairs_wf hc)
  have htwelve : mapCode cfg 0x0C = some (symbolCode .one) := mapCode_of_mem hc hfixed
  exact ⟨htwelve, fun c h => mapCode_inj (sym := .one) hc h htwelve⟩

end Sys2Proof.Machine
end

section
/-! The registers at the start of a run (70_reset_and_hazards.md R261 to R263). -/

namespace Sys2Proof.Machine

/-- Settles O49: RESET leaves the registers of construction, which are the table's. -/
theorem registersAfterReset : Obligations.RegistersAfterReset := by
  refine ⟨fun s t h => ?_, rfl, rfl, rfl, rfl, rfl⟩
  obtain ⟨hregs, -⟩ := exec_reset_regs h
  exact ⟨hregs, congrArg (fun r : Registers => !r.outValid) hregs⟩

/-- Settles O50: the empty words are construction's, and RESET leaves its registers. -/
theorem runsStartEmpty : Obligations.RunsStartEmpty := by
  refine fun cfg => ⟨rfl, rfl, rfl, rfl, ?_⟩
  rintro s t rfl h
  obtain ⟨hregs, -⟩ := exec_reset_regs h
  exact hregs

end Sys2Proof.Machine
end

section
/-! The stimulus assembler (30_encoding.md R82, R83). -/

namespace Sys2Proof.Machine

/-- Settles O60: the assembler's own test of the operands. -/
theorem assemblerRejectsWideOperands : Obligations.AssemblerRejectsWideOperands :=
  fun _ _ _ => ⟨fun hfit => ⟨_, if_pos hfit⟩, fun hwide => if_neg hwide⟩

end Sys2Proof.Machine
end

section
/-! The intervals of one frame as EDGEs on a running machine: what PulseDecoder answers to them in turn is what TRACE shows, and
the Symbol goes through the open gate to EventSink (43_decoder_loop.md R180 to R188; 40_pulse_decoder.md R112). -/

namespace Sys2Proof.Machine

variable {cfg : Config} {s : State}

/-! ### The role of each interval -/

/-- The intervals `ivs` with the roles that consumed EDGEs give them, `POL` being `pol` at the first (43_decoder_loop.md R184). -/
def withPolarity (pol : Bool) (ivs : List Timestamp) : List (Bool × Timestamp) := (List.iterate not pol ivs.length).zip ivs

theorem withPolarity_cons (pol : Bool) (iv : Timestamp) (ivs : List Timestamp) :
    withPolarity pol (iv :: ivs) = (pol, iv) :: withPolarity (!pol) ivs := rfl

theorem withPolarity_append_singleton (pol : Bool) (ivs : List Timestamp) (iv : Timestamp) :
    withPolarity pol (ivs ++ [iv]) = withPolarity pol ivs ++ [(not^[ivs.length] pol, iv)] := by
  induction ivs generalizing pol with
  | nil => rfl
  | cons x ivs ih =>
    rw [List.cons_append, withPolarity_cons, ih]
    rfl

theorem withPolarity_map_snd (pol : Bool) (ivs : List Timestamp) : (withPolarity pol ivs).map Prod.snd = ivs :=
  List.map_snd_zip (by simp)

/-- A frame alternates between mark and space, from a mark on (30_encoding.md R77). -/
theorem withRoles_frameSlots (c k : Code) {ivs : List Timestamp} (hlen : ivs.length = 34) :
    withRoles (frameSlots c k) ivs = withPolarity true ivs := by
  rw [withPolarity, hlen]
  rfl

/-- With the polarity unchecked, runs over the same intervals agree whatever their roles. -/
theorem pdRun_of_unchecked (hpol : cfg.polCheck = false) {l l' : List (Bool × Timestamp)}
    (h : l.map Prod.snd = l'.map Prod.snd) (d : DState) (n : BitVec 4) (a : BitVec 16) :
    pdRun cfg d n a l = pdRun cfg d n a l' := by
  induction l generalizing l' d n a with
  | nil => rw [List.map_eq_nil_iff.1 h.symm]
  | cons p l ih =>
    obtain ⟨isMark, iv⟩ := p
    obtain ⟨⟨isMark', iv'⟩, l', rfl, rfl, hrest⟩ := List.map_eq_cons_iff.1 h.symm
    rw [pdRun, pdRun, pdStep_role_irrelevant hpol d n a iv' isMark isMark', ih hrest.symm]

/-- A valid frame from a machine in step with it, or with the polarity unchecked: 33 times NoSymbol, then its Symbol. -/
theorem pdRun_withPolarity (hc : cfg.wf = true) {pol : Bool} (hpol : pol = true ∨ cfg.polCheck = false) {c : Code}
    {ivs : List Timestamp} (h : inBands cfg (frameSlots c (~~~c)) ivs) :
    ∃ (first : List Timestamp) (iv : Timestamp), ivs = first ++ [iv] ∧ first.length = 33 ∧
      (∀ r ∈ pdRun cfg .shIdle 0 0 (withPolarity pol first), r.out = .noSymbol) ∧
      pdStep cfg (pdEnd cfg .shIdle 0 0 (withPolarity pol first)).1 (pdEnd cfg .shIdle 0 0 (withPolarity pol first)).2.1
        (pdEnd cfg .shIdle 0 0 (withPolarity pol first)).2.2 iv (not^[first.length] pol) = foldBack .symbol c := by
  obtain ⟨hframe, -⟩ := frameGivesItsSymbolOnInterval34
  obtain ⟨hlen, before, hrun, hbefore, hno⟩ := hframe cfg c ivs hc h
  have hroles : pdRun cfg .shIdle 0 0 (withPolarity pol ivs) = before ++ [foldBack .symbol c] := by
    rw [show (List.map Prod.fst _).zip ivs = _ from withRoles_frameSlots c (~~~c) hlen] at hrun
    rcases hpol with rfl | hpol
    · exact hrun
    · exact (pdRun_of_unchecked hpol (by simp only [withPolarity_map_snd]) _ _ _).trans hrun
  obtain ⟨first, iv, rfl⟩ : ∃ first iv, ivs = first ++ [iv] :=
    ⟨_, _, (List.dropLast_concat_getLast (by rintro rfl; cases hlen)).symm⟩
  have hfirst : first.length = 33 := by simpa using hlen
  rw [withPolarity_append_singleton, pdRun_append] at hroles
  obtain ⟨hhead, hlast⟩ := List.append_inj hroles (by simp [pdRun_length, withPolarity, hfirst, hbefore])
  exact ⟨first, iv, rfl, hfirst, hhead ▸ hno, List.singleton_inj.1 hlast⟩

/-! ### EDGEs that give NoSymbol -/

theorem decodeEdge_interval (s : State) (iv : Timestamp) :
    decodeEdge (s.prevTs + iv) s = pdStep s.cfg s.dstate s.bitcnt s.acc iv s.pol := by
  rw [decodeEdge, interval, add_sub_cancel_left]

theorem edgesFrom_append_singleton (prev : Timestamp) (edges : List (Timestamp × Instant)) (iv : Timestamp) (now : Instant) :
    edgesFrom prev (edges ++ [(iv, now)]) =
      edgesFrom prev edges ++ [.edge (prev + (edges.map Prod.fst).sum + iv) now] := by
  induction edges generalizing prev with
  | nil => simp [edgesFrom]
  | cons e edges ih => simp [edgesFrom, ih, BitVec.add_assoc]

/-- `s` after EDGEs with the intervals `ivs`, each of which gave NoSymbol, with the stream `words` to come. -/
def State.afterIntervals (ivs : List Timestamp) (words : List TxWord) (s : State) : State :=
  { s with
    prevTs := s.prevTs + ivs.sum
    pol := not^[ivs.length] s.pol
    dstate := (pdEnd s.cfg s.dstate s.bitcnt s.acc (withPolarity s.pol ivs)).1
    bitcnt := (pdEnd s.cfg s.dstate s.bitcnt s.acc (withPolarity s.pol ivs)).2.1
    acc := (pdEnd s.cfg s.dstate s.bitcnt s.acc (withPolarity s.pol ivs)).2.2
    trace := s.trace ++ List.replicate ivs.length ⟨.noSym, 0⟩
    input := words }

/-- The step of an EDGE that gives NoSymbol. -/
theorem step_edge_of_noSymbol (hs : s.Running) (ho : s.outValid = false) (hp : s.prevValid = true) {iv : Timestamp}
    {now : Instant} {words : List TxWord} (hi : s.input = encode (.edge (s.prevTs + iv) now) :: words)
    (hout : (pdStep s.cfg s.dstate s.bitcnt s.acc iv s.pol).out = .noSymbol) :
    step s = .next (s.afterIntervals [iv] words) := by
  refine (step_of_encode hs hi).trans (congrArg Host.Outcome.next ?_)
  have hdecode := decodeEdge_interval { s with input := words } iv
  rw [edgeEffect_of_primed (s := { s with input := words }) ho hp, State.afterDecode, hdecode, hout]
  simp [handleOutcome, State.afterIntervals, withPolarity, pdEnd, State.record, State.writeDecoder, State.consumeEdge,
    State.setPrevTs, State.togglePol]

theorem afterIntervals_cons (iv : Timestamp) (ivs : List Timestamp) (words words' : List TxWord) (s : State) :
    (s.afterIntervals [iv] words).afterIntervals ivs words' = s.afterIntervals (iv :: ivs) words' := by
  simp [State.afterIntervals, withPolarity, pdEnd, BitVec.add_assoc, List.replicate_succ]

/-- EDGEs that give NoSymbol, by induction on them. -/
theorem run_noSymbol_edges (words : List TxWord) (edges : List (Timestamp × Instant)) :
    ∀ s : State, s.Running → s.outValid = false → s.prevValid = true →
      s.input = (edgesFrom s.prevTs edges).map encode ++ words →
      (∀ r ∈ pdRun s.cfg s.dstate s.bitcnt s.acc (withPolarity s.pol (edges.map Prod.fst)), r.out = .noSymbol) →
      run edges.length s = .next (s.afterIntervals (edges.map Prod.fst) words) := by
  induction edges with
  | nil =>
    rintro s - - - rfl -
    simp [State.afterIntervals, withPolarity, pdEnd]
  | cons e edges ih =>
    intro s hs ho hp hi hno
    rw [List.map_cons, withPolarity_cons, pdRun, List.forall_mem_cons] at hno
    rw [List.length_cons, run_of_next (step_edge_of_noSymbol hs ho hp hi hno.1),
      ih (s.afterIntervals [e.1] _) hs ho hp (by simp [State.afterIntervals]) hno.2]
    exact congrArg Host.Outcome.next (afterIntervals_cons ..)

/-! ### The EDGE that completes the frame, and the DELIVER -/

/-- An EDGE whose symbol is mapped and finds the gate open, and a DELIVER: the symbol is handed over. -/
theorem run_accepted_deliver (hs : s.Running) (ho : s.outValid = false) (hp : s.prevValid = true) {iv : Timestamp}
    {now : Instant} {words : List TxWord}
    (hi : s.input = encode (.edge (s.prevTs + iv) now) :: encode .deliver :: words) {c : Code} {sym : SymCode}
    (hsym : pdStep s.cfg s.dstate s.bitcnt s.acc iv s.pol = foldBack .symbol c) (hmap : mapCode s.cfg c = some sym)
    (hopen : s.lastValid = false ∨ s.lastAcc.toNat ≤ now.toNat ∧ s.cfg.qw.toNat ≤ now.toNat - s.lastAcc.toNat) :
    run 2 s = .next { s with
      pol := !s.pol, prevTs := s.prevTs + iv, dstate := .shIdle, bitcnt := 0, acc := 0, lastAcc := now, lastValid := true,
      outValid := false, outSym := sym, delivered := s.delivered ++ [sym],
      trace := s.trace ++ [⟨.accepted, sym.setWidth 8⟩, ⟨.delivered, sym.setWidth 8⟩], input := words } := by
  have hdecode : pdStep s.cfg s.dstate s.bitcnt s.acc (s.prevTs + iv - s.prevTs) s.pol = foldBack .symbol c :=
    (decodeEdge_interval s iv).trans hsym
  obtain ⟨t, hedge, ht, -⟩ := acceptedSymbolWaitsForTheSink (s.prevTs + iv) now
    { s with input := encode .deliver :: words } _ sym ho hp rfl (by rw [hdecode]; rfl) (by rw [hdecode]; exact hmap) hopen
  have htrun : t.Running := by rw [ht]; exact hs
  have htinput : t.input = encode .deliver :: words := by rw [ht]
  obtain ⟨hdeliver, -, -⟩ := deliverHandsOverThePendingSymbol
  rw [run_of_next ((step_of_encode hs hi).trans hedge), run_one, step_of_encode htrun htinput,
    hdeliver { t with input := words } (by rw [ht]), ht]
  simp

/-- Settles O57: 33 EDGEs of the frame give NoSymbol, the 34th its Symbol, and then the symbol is delivered. -/
theorem keyPressDeliversItsSymbol : Obligations.KeyPressDeliversItsSymbol := by
  rintro s c sym ivs nows last rest hs ⟨hd, hn, ha⟩ hp ho hpol hivs hpair hnows hopen hi
  obtain ⟨first, iv, rfl, hfirst, hno, hsym⟩ := pdRun_withPolarity hs.1 hpol hivs
  have hzip : (first.zip nows).map Prod.fst = first := List.map_fst_zip (by omega)
  have hlen : (first.zip nows).length = 33 := by simp [hfirst, hnows]
  rw [List.zip_append (by omega), List.zip_cons_cons, List.zip_nil_left, edgesFrom_append_singleton, hzip, List.map_append,
    List.append_assoc] at hi
  have hframe := run_noSymbol_edges _ (first.zip nows) s hs ho hp hi (by rw [hzip, hd, hn, ha]; exact hno)
  rw [hzip, hlen] at hframe
  rw [run_add hframe 2, run_accepted_deliver (s := s.afterIntervals first _) hs ho hp rfl
    (by simpa only [State.afterIntervals, hd, hn, ha] using hsym) (mapCode_of_mem hs.1 hpair) hopen]
  simp [State.afterIntervals, hfirst, hd, hn, ha, ho, BitVec.add_assoc]

end Sys2Proof.Machine
end

section
/-! NEC16 (30_encoding.md R83): what a sequence of marks and spaces assembles to, and how long a frame of a code and its
complement is. -/

namespace Sys2Proof.Machine

/-! ### The running time -/

/-- The nominal intervals of some slots. -/
def nominalsOf (slots : List Slot) : List Timestamp := slots.map fun slot => Config.reference.nominal slot.2

/-- How long some intervals are together. -/
def totalTime (ivs : List Timestamp) : Nat := (ivs.map BitVec.toNat).sum

/-- The running `n` after each of some intervals. -/
def runningNows (n : Instant) (ivs : List Timestamp) : List Instant :=
  (List.range ivs.length).map fun k => n + BitVec.ofNat 64 (totalTime (ivs.take (k + 1)))

theorem totalTime_cons (iv : Timestamp) (ivs : List Timestamp) : totalTime (iv :: ivs) = iv.toNat + totalTime ivs := by
  simp [totalTime]

theorem runningNows_cons (n : Instant) (iv : Timestamp) (ivs : List Timestamp) :
    runningNows n (iv :: ivs) =
      (n + BitVec.ofNat 64 iv.toNat) :: runningNows (n + BitVec.ofNat 64 iv.toNat) ivs := by
  simp [runningNows, List.range_succ_eq_map, totalTime, Function.comp_def, BitVec.ofNat_add, BitVec.add_assoc]

/-! ### Marks and spaces -/

/-- One mark or space, while the running `n` stays within 64 bits. -/
theorem asmAdvance_of_fits {t : Timestamp} {n : Instant} {d : Nat} (h : n.toNat + d < 2 ^ 64) (isMark afterSpace : Bool) :
    asmAdvance isMark d ⟨some (t, n), afterSpace⟩ =
      .ok (⟨some (t + BitVec.ofNat 32 d, n + BitVec.ofNat 64 d), !isMark⟩,
        [.edge (t + BitVec.ofNat 32 d) (n + BitVec.ofNat 64 d)]) := if_pos h

/-- Two expansions, the second from where the first left the assembler. -/
theorem asmThen_of_ok {st st' : AsmState} {is is' : List Instr} {next : AsmState → Assembled (AsmState × List Instr)}
    (h : next st = .ok (st', is')) : asmThen (.ok (st, is)) next = .ok (st', is ++ is') := by
  simp only [asmThen, h]

/-- A sequence of marks and spaces, by induction on it: the EDGEs are spaced by the nominal intervals, and the running time moves
on by all of them. -/
theorem asmSlots_of_fits (slots : List Slot) {t : Timestamp} {n : Instant} (afterSpace : Bool)
    (h : n.toNat + totalTime (nominalsOf slots) < 2 ^ 64) :
    asmSlots slots ⟨some (t, n), afterSpace⟩ =
      .ok (⟨some (t + BitVec.ofNat 32 (totalTime (nominalsOf slots)), n + BitVec.ofNat 64 (totalTime (nominalsOf slots))),
          (slots.map fun slot => !slot.1).getLastD afterSpace⟩,
        edgesFrom t ((nominalsOf slots).zip (runningNows n (nominalsOf slots)))) := by
  induction slots generalizing t n afterSpace with
  | nil => simp [asmSlots, nominalsOf, totalTime, edgesFrom]
  | cons slot slots ih =>
    have hcons : nominalsOf (slot :: slots) = Config.reference.nominal slot.2 :: nominalsOf slots := rfl
    rw [hcons, totalTime_cons] at h
    have hn : (n + BitVec.ofNat 64 (Config.reference.nominal slot.2).toNat).toNat =
        n.toNat + (Config.reference.nominal slot.2).toNat := by
      rw [BitVec.toNat_add, BitVec.toNat_ofNat]
      omega
    have hrest := ih (t := t + BitVec.ofNat 32 (Config.reference.nominal slot.2).toNat) (!slot.1)
      (by rw [hn, Nat.add_assoc]; exact h)
    rw [asmSlots, asmAdvance_of_fits (by omega), asmThen_of_ok hrest]
    simp only [hcons, totalTime_cons, runningNows_cons, BitVec.ofNat_add, BitVec.add_assoc, List.map_cons,
      List.getLastD_cons, List.zip_cons_cons, edgesFrom, BitVec.ofNat_toNat, BitVec.setWidth_eq, List.singleton_append]

/-! ### The frame of a code and its complement -/

theorem nominalsOf_append (l l' : List Slot) : nominalsOf (l ++ l') = nominalsOf l ++ nominalsOf l' := List.map_append

theorem totalTime_append (ivs ivs' : List Timestamp) : totalTime (ivs ++ ivs') = totalTime ivs + totalTime ivs' := by
  simp [totalTime]

/-- A bit and its inverse are a 0 and a 1: two bit marks, a short space and a long one. -/
theorem totalTime_bit_and_not (b : Bool) : totalTime (nominalsOf (bitSlots b)) + totalTime (nominalsOf (bitSlots !b)) = 3373 := by
  cases b <;> decide

/-- Bits and their inverses, by induction on which bits. -/
theorem totalTime_bits_and_not (c : Code) (is : List Nat) (his : ∀ i ∈ is, i < 8) :
    totalTime (nominalsOf (is.flatMap fun i => bitSlots (c.getLsbD i))) +
      totalTime (nominalsOf (is.flatMap fun i => bitSlots ((~~~c).getLsbD i))) = 3373 * is.length := by
  induction is with
  | nil => rfl
  | cons i is ih =>
    obtain ⟨hi, his⟩ := List.forall_mem_cons.1 his
    have hbit : (~~~c).getLsbD i = !c.getLsbD i := by rw [BitVec.getLsbD_not]; simp [hi]
    have hboth := totalTime_bit_and_not (c.getLsbD i)
    have hrest := ih his
    simp only [List.flatMap_cons, nominalsOf_append, totalTime_append, List.length_cons, hbit]
    omega

/-- Every frame of a code and its complement is equally long. -/
theorem totalTime_frame (c : Code) : totalTime (nominalsOf (frameSlots c (~~~c))) = 40484 := by
  have hheader : totalTime (nominalsOf headerSlots) = 13500 := by decide
  have hbytes := totalTime_bits_and_not c (List.range 8) fun i hi => List.mem_range.1 hi
  rw [List.length_range] at hbytes
  rw [frameSlots, nominalsOf_append, nominalsOf_append, totalTime_append, totalTime_append, hheader, byteSlots, byteSlots]
  omega

theorem nominalsOf_inBands (slots : List Slot) : inBands Config.reference slots (nominalsOf slots) :=
  List.forall₂_map_right_iff.2 (List.forall₂_same.2 fun slot _ => nominal_inBand_reference slot.2)

theorem edgesFrom_length (prev : Timestamp) (edges : List (Timestamp × Instant)) :
    (edgesFrom prev edges).length = edges.length := by
  induction edges generalizing prev with
  | nil => rfl
  | cons e edges ih => rw [edgesFrom, List.length_cons, ih, List.length_cons]

/-- NEC16 is the frame of the code and its complement. -/
theorem asmLine_nec16 (c : Code) (t : Timestamp) (n : Instant) :
    asmLine (.nec16 c.toNat) ⟨some (t, n), true⟩ = asmSlots (frameSlots c (~~~c)) ⟨some (t, n), true⟩ := by
  have hfits : ¬ (256 ≤ c.toNat ∨ 256 ≤ 255 - c.toNat % 256) := by omega
  have hcode : BitVec.ofNat 8 c.toNat = c := by simp
  have hcheck : BitVec.ofNat 8 (255 - c.toNat % 256) = ~~~c := by
    apply BitVec.eq_of_toNat_eq
    rw [BitVec.toNat_not, BitVec.toNat_ofNat]
    omega
  rw [asmLine, asmFrame, if_neg hfits, if_neg Bool.true_eq_false.mp, hcode, hcheck]

/-- Settles O59: the frame's 34 slots at their nominal intervals, which are 40484 microseconds in all. -/
theorem assembledFrameIsTheOnAirFrame : Obligations.AssembledFrameIsTheOnAirFrame := by
  rintro c t n ivs nows hn rfl rfl
  have hlen : (nominalsOf (frameSlots c (~~~c))).length = 34 := (List.length_map ..).trans (frameSlots_length c _)
  have htime := totalTime_frame c
  have hasm := asmSlots_of_fits (frameSlots c (~~~c)) (t := t) true (by rw [htime]; exact hn)
  have hlast : ((frameSlots c (~~~c)).map fun slot => !slot.1).getLastD true = true := rfl
  rw [htime, hlast, runningNows, hlen] at hasm
  refine ⟨(asmLine_nec16 c t n).trans hasm, hlen, ?_, nominalsOf_inBands _⟩
  simp [edgesFrom_length, frameSlots_length]

end Sys2Proof.Machine
end
